-- ==== Sys2Proof/Word.lean ====
section
/-! DEFINITION. The word types of the block (00_scope.md R7, R8; 30_encoding.md R71, R72). -/

namespace Sys2Proof

/-- One byte of `BUF` (10_state.md R26). -/
abbrev Byte := BitVec 8

/-- A command word, a host register, a host bus datum (30_encoding.md R70; 20_memory.md R41). -/
abbrev Word32 := BitVec 32

/-- A scalar register's content (10_state.md R24). -/
abbrev Scalar := BitVec 64

/-- A value register operand: the whole 4-bit slot, an index 0..15 (30_encoding.md R72). -/
abbrev VReg := BitVec 4

/-- A wide register operand: the low two bits of its slot, an index 0..3 (30_encoding.md R72). -/
abbrev PReg := BitVec 2

/-- A scalar register operand: the whole 4-bit slot, an index 0..15 (30_encoding.md R72). -/
abbrev SReg := BitVec 4

/-- The only immediate, `imm16` (30_encoding.md R74). -/
abbrev Imm16 := BitVec 16

/-- A byte offset of the host address space, 0x0000 .. 0x1FFF (20_memory.md R40). -/
abbrev HostOffset := BitVec 13

end Sys2Proof
end

