-- ==== Sys2Proof/Syntax.lean ====
section
/-! DEFINITION. The commands of the block: one constructor for each row of the opcode map (30_encoding.md R76),
its operands in the order of that table. Every term is a legal command: an operand's type has exactly the values
its field may hold (R72, R74). The raw listing form, which can be ill-formed, is in WellFormed.lean. -/

namespace Sys2Proof

/-- A command (30_encoding.md R76). `vd`, `va`, `vb` index the value file, `pd`, `pa` the wide file, `sd`, `sa`,
`sb` the scalar file (00_scope.md R13). -/
inductive Instr where
  /-- `NOP`, 40_representation.md R100. -/
  | nop
  /-- `MOV`, 40_representation.md R101. -/
  | mov (vd : VReg) (va : VReg)
  /-- `ZERO`, 40_representation.md R102. -/
  | zero (vd : VReg)
  /-- `ONE`, 40_representation.md R103. -/
  | one (vd : VReg)
  /-- `MAXV`, 40_representation.md R104. -/
  | maxv (vd : VReg)
  /-- `ADD`, 41_arithmetic.md R120. -/
  | add (vd : VReg) (va : VReg) (vb : VReg)
  /-- `SUB`, 41_arithmetic.md R121. -/
  | sub (vd : VReg) (va : VReg) (vb : VReg)
  /-- `MUL`, 41_arithmetic.md R122. -/
  | mul (pd : PReg) (va : VReg) (vb : VReg)
  /-- `DIV`, 41_arithmetic.md R124. -/
  | div (vd : VReg) (va : VReg) (vb : VReg)
  /-- `MOD`, 41_arithmetic.md R125. -/
  | mod (vd : VReg) (va : VReg) (vb : VReg)
  /-- `PLO`, 41_arithmetic.md R127. -/
  | plo (vd : VReg) (pa : PReg)
  /-- `PHI`, 41_arithmetic.md R128. -/
  | phi (vd : VReg) (pa : PReg)
  /-- `PISZ`, 41_arithmetic.md R129. -/
  | pisz (sd : SReg) (pa : PReg)
  /-- `AND`, 42_bit.md R160. -/
  | and (vd : VReg) (va : VReg) (vb : VReg)
  /-- `OR`, 42_bit.md R161. -/
  | or (vd : VReg) (va : VReg) (vb : VReg)
  /-- `XOR`, 42_bit.md R162. -/
  | xor (vd : VReg) (va : VReg) (vb : VReg)
  /-- `NOT`, 42_bit.md R163. -/
  | not (vd : VReg) (va : VReg)
  /-- `SHL`, 42_bit.md R164. -/
  | shl (vd : VReg) (va : VReg) (sb : SReg)
  /-- `SHR`, 42_bit.md R165. -/
  | shr (vd : VReg) (va : VReg) (sb : SReg)
  /-- `SHLI`, 42_bit.md R166. -/
  | shli (vd : VReg) (va : VReg) (imm16 : Imm16)
  /-- `SHRI`, 42_bit.md R167. -/
  | shri (vd : VReg) (va : VReg) (imm16 : Imm16)
  /-- `BIT`, 42_bit.md R169. -/
  | bit (sd : SReg) (va : VReg) (sb : SReg)
  /-- `SETBIT`, 42_bit.md R170. -/
  | setbit (vd : VReg) (va : VReg) (sb : SReg)
  /-- `CLRBIT`, 42_bit.md R171. -/
  | clrbit (vd : VReg) (va : VReg) (sb : SReg)
  /-- `FLIPBIT`, 42_bit.md R172. -/
  | flipbit (vd : VReg) (va : VReg) (sb : SReg)
  /-- `CLZ`, 42_bit.md R173. -/
  | clz (sd : SReg) (va : VReg)
  /-- `CTZ`, 42_bit.md R174. -/
  | ctz (sd : SReg) (va : VReg)
  /-- `POPC`, 42_bit.md R175. -/
  | popc (sd : SReg) (va : VReg)
  /-- `EQ`, 43_compare.md R201. -/
  | eq (sd : SReg) (va : VReg) (vb : VReg)
  /-- `NE`, 43_compare.md R202. -/
  | ne (sd : SReg) (va : VReg) (vb : VReg)
  /-- `LT`, 43_compare.md R203. -/
  | lt (sd : SReg) (va : VReg) (vb : VReg)
  /-- `LE`, 43_compare.md R204. -/
  | le (sd : SReg) (va : VReg) (vb : VReg)
  /-- `GT`, 43_compare.md R205. -/
  | gt (sd : SReg) (va : VReg) (vb : VReg)
  /-- `GE`, 43_compare.md R206. -/
  | ge (sd : SReg) (va : VReg) (vb : VReg)
  /-- `CMP`, 43_compare.md R207. -/
  | cmp (sd : SReg) (va : VReg) (vb : VReg)
  /-- `ISODD`, 43_compare.md R208. -/
  | isodd (sd : SReg) (va : VReg)
  /-- `ISEVEN`, 43_compare.md R209. -/
  | iseven (sd : SReg) (va : VReg)
  /-- `MIN`, 43_compare.md R210. -/
  | min (vd : VReg) (va : VReg) (vb : VReg)
  /-- `MAX`, 43_compare.md R211. -/
  | max (vd : VReg) (va : VReg) (vb : VReg)
  /-- `FROMS`, 44_codec.md R231. -/
  | froms (vd : VReg) (sa : SReg)
  /-- `FROMW`, 44_codec.md R232. -/
  | fromw (vd : VReg) (sa : SReg) (sb : SReg)
  /-- `FROMLE`, 44_codec.md R233. -/
  | fromle (vd : VReg) (sa : SReg) (sb : SReg)
  /-- `FROMBE`, 44_codec.md R234. -/
  | frombe (vd : VReg) (sa : SReg) (sb : SReg)
  /-- `TOW`, 44_codec.md R235. -/
  | tow (va : VReg) (sb : SReg)
  /-- `TOLE`, 44_codec.md R236. -/
  | tole (va : VReg) (sb : SReg)
  /-- `TOBE`, 44_codec.md R237. -/
  | tobe (va : VReg) (sb : SReg)
  /-- `DEC`, 44_codec.md R240. -/
  | dec (sd : SReg) (va : VReg) (sb : SReg)
  /-- `HEX`, 44_codec.md R241. -/
  | hex (sd : SReg) (va : VReg) (sb : SReg)
  /-- `PDEC`, 44_codec.md R242. -/
  | pdec (sd : SReg) (pa : PReg) (sb : SReg)
  /-- `SLI`, 45_scalar.md R270. -/
  | sli (sd : SReg) (imm16 : Imm16)
  /-- `SSHI`, 45_scalar.md R271. -/
  | sshi (sd : SReg) (imm16 : Imm16)
  /-- `LDS`, 45_scalar.md R272. -/
  | lds (sd : SReg) (sa : SReg)
  /-- `STS`, 45_scalar.md R273. -/
  | sts (sa : SReg) (sb : SReg)
  /-- `SMOV`, 45_scalar.md R274. -/
  | smov (sd : SReg) (sa : SReg)
  deriving DecidableEq, Repr

end Sys2Proof
end

