-- ==== Sys2Proof/WellFormed.lean ====
section
/-! DEFINITION. The listing form of a command (30_encoding.md R83): a mnemonic and a list of raw operands, which can
be ill-formed; the checks R83 asks of it; and the translation to and from `Instr`, whose terms are all well-formed. -/

namespace Sys2Proof

/-- The 54 mnemonics of the opcode map, in its order (30_encoding.md R76). -/
inductive Mnemonic where
  | nop | mov | zero | one | maxv | add | sub | mul | div
  | mod | plo | phi | pisz | and | or | xor | not | shl
  | shr | shli | shri | bit | setbit | clrbit | flipbit | clz | ctz
  | popc | eq | ne | lt | le | gt | ge | cmp | isodd
  | iseven | min | max | froms | fromw | fromle | frombe | tow | tole
  | tobe | dec | hex | pdec | sli | sshi | lds | sts | smov
  deriving DecidableEq, Repr

/-- The file an operand field names, or the immediate (30_encoding.md R72, R74). -/
inductive OperandKind where
  | v | p | s | imm
  deriving DecidableEq, Repr

/-- A raw operand of a listing line: a register name `v`n, `p`n, `s`n, or an immediate (30_encoding.md R83). -/
inductive Operand where
  | v (n : Nat)
  | p (n : Nat)
  | s (n : Nat)
  | imm (x : Int)
  deriving DecidableEq, Repr

/-- A listing line: the mnemonic, then its operands in the order of the opcode map (30_encoding.md R83). -/
structure Line where
  mnemonic : Mnemonic
  operands : List Operand
  deriving DecidableEq, Repr

/-- The operand fields of each mnemonic, in order (30_encoding.md R76, column "operands"). -/
def Mnemonic.signature : Mnemonic → List OperandKind
  | .nop => []
  | .mov => [.v, .v]
  | .zero => [.v]
  | .one => [.v]
  | .maxv => [.v]
  | .add => [.v, .v, .v]
  | .sub => [.v, .v, .v]
  | .mul => [.p, .v, .v]
  | .div => [.v, .v, .v]
  | .mod => [.v, .v, .v]
  | .plo => [.v, .p]
  | .phi => [.v, .p]
  | .pisz => [.s, .p]
  | .and => [.v, .v, .v]
  | .or => [.v, .v, .v]
  | .xor => [.v, .v, .v]
  | .not => [.v, .v]
  | .shl => [.v, .v, .s]
  | .shr => [.v, .v, .s]
  | .shli => [.v, .v, .imm]
  | .shri => [.v, .v, .imm]
  | .bit => [.s, .v, .s]
  | .setbit => [.v, .v, .s]
  | .clrbit => [.v, .v, .s]
  | .flipbit => [.v, .v, .s]
  | .clz => [.s, .v]
  | .ctz => [.s, .v]
  | .popc => [.s, .v]
  | .eq => [.s, .v, .v]
  | .ne => [.s, .v, .v]
  | .lt => [.s, .v, .v]
  | .le => [.s, .v, .v]
  | .gt => [.s, .v, .v]
  | .ge => [.s, .v, .v]
  | .cmp => [.s, .v, .v]
  | .isodd => [.s, .v]
  | .iseven => [.s, .v]
  | .min => [.v, .v, .v]
  | .max => [.v, .v, .v]
  | .froms => [.v, .s]
  | .fromw => [.v, .s, .s]
  | .fromle => [.v, .s, .s]
  | .frombe => [.v, .s, .s]
  | .tow => [.v, .s]
  | .tole => [.v, .s]
  | .tobe => [.v, .s]
  | .dec => [.s, .v, .s]
  | .hex => [.s, .v, .s]
  | .pdec => [.s, .p, .s]
  | .sli => [.s, .imm]
  | .sshi => [.s, .imm]
  | .lds => [.s, .s]
  | .sts => [.s, .s]
  | .smov => [.s, .s]

/-- "the register name must be of the file the operand field names" (30_encoding.md R83). -/
def Operand.kind : Operand → OperandKind
  | .v _ => .v
  | .p _ => .p
  | .s _ => .s
  | .imm _ => .imm

/-- Register names are `v0`..`v15`, `p0`..`p3`, `s0`..`s15`; immediates "must be in 0..65535" (30_encoding.md R83). -/
def Operand.inRange : Operand → Bool
  | .v n => n < 16
  | .p n => n < 4
  | .s n => n < 16
  | .imm x => 0 ≤ x && x < 65536

/-- The check of a line: as many operands as the opcode map gives, each of its field's file, each in range. -/
def Line.wf (l : Line) : Bool :=
  l.operands.length == l.mnemonic.signature.length &&
  l.operands.map Operand.kind == l.mnemonic.signature &&
  l.operands.all Operand.inRange

/-- The mnemonic of a command. -/
def Instr.mnemonic : Instr → Mnemonic
  | .nop => .nop
  | .mov _ _ => .mov
  | .zero _ => .zero
  | .one _ => .one
  | .maxv _ => .maxv
  | .add _ _ _ => .add
  | .sub _ _ _ => .sub
  | .mul _ _ _ => .mul
  | .div _ _ _ => .div
  | .mod _ _ _ => .mod
  | .plo _ _ => .plo
  | .phi _ _ => .phi
  | .pisz _ _ => .pisz
  | .and _ _ _ => .and
  | .or _ _ _ => .or
  | .xor _ _ _ => .xor
  | .not _ _ => .not
  | .shl _ _ _ => .shl
  | .shr _ _ _ => .shr
  | .shli _ _ _ => .shli
  | .shri _ _ _ => .shri
  | .bit _ _ _ => .bit
  | .setbit _ _ _ => .setbit
  | .clrbit _ _ _ => .clrbit
  | .flipbit _ _ _ => .flipbit
  | .clz _ _ => .clz
  | .ctz _ _ => .ctz
  | .popc _ _ => .popc
  | .eq _ _ _ => .eq
  | .ne _ _ _ => .ne
  | .lt _ _ _ => .lt
  | .le _ _ _ => .le
  | .gt _ _ _ => .gt
  | .ge _ _ _ => .ge
  | .cmp _ _ _ => .cmp
  | .isodd _ _ => .isodd
  | .iseven _ _ => .iseven
  | .min _ _ _ => .min
  | .max _ _ _ => .max
  | .froms _ _ => .froms
  | .fromw _ _ _ => .fromw
  | .fromle _ _ _ => .fromle
  | .frombe _ _ _ => .frombe
  | .tow _ _ => .tow
  | .tole _ _ => .tole
  | .tobe _ _ => .tobe
  | .dec _ _ _ => .dec
  | .hex _ _ _ => .hex
  | .pdec _ _ _ => .pdec
  | .sli _ _ => .sli
  | .sshi _ _ => .sshi
  | .lds _ _ => .lds
  | .sts _ _ => .sts
  | .smov _ _ => .smov

/-- The listing line of a command (30_encoding.md R83). -/
def Instr.line : Instr → Line
  | .nop => ⟨.nop, []⟩
  | .mov vd va => ⟨.mov, [.v vd.toNat, .v va.toNat]⟩
  | .zero vd => ⟨.zero, [.v vd.toNat]⟩
  | .one vd => ⟨.one, [.v vd.toNat]⟩
  | .maxv vd => ⟨.maxv, [.v vd.toNat]⟩
  | .add vd va vb => ⟨.add, [.v vd.toNat, .v va.toNat, .v vb.toNat]⟩
  | .sub vd va vb => ⟨.sub, [.v vd.toNat, .v va.toNat, .v vb.toNat]⟩
  | .mul pd va vb => ⟨.mul, [.p pd.toNat, .v va.toNat, .v vb.toNat]⟩
  | .div vd va vb => ⟨.div, [.v vd.toNat, .v va.toNat, .v vb.toNat]⟩
  | .mod vd va vb => ⟨.mod, [.v vd.toNat, .v va.toNat, .v vb.toNat]⟩
  | .plo vd pa => ⟨.plo, [.v vd.toNat, .p pa.toNat]⟩
  | .phi vd pa => ⟨.phi, [.v vd.toNat, .p pa.toNat]⟩
  | .pisz sd pa => ⟨.pisz, [.s sd.toNat, .p pa.toNat]⟩
  | .and vd va vb => ⟨.and, [.v vd.toNat, .v va.toNat, .v vb.toNat]⟩
  | .or vd va vb => ⟨.or, [.v vd.toNat, .v va.toNat, .v vb.toNat]⟩
  | .xor vd va vb => ⟨.xor, [.v vd.toNat, .v va.toNat, .v vb.toNat]⟩
  | .not vd va => ⟨.not, [.v vd.toNat, .v va.toNat]⟩
  | .shl vd va sb => ⟨.shl, [.v vd.toNat, .v va.toNat, .s sb.toNat]⟩
  | .shr vd va sb => ⟨.shr, [.v vd.toNat, .v va.toNat, .s sb.toNat]⟩
  | .shli vd va imm16 => ⟨.shli, [.v vd.toNat, .v va.toNat, .imm imm16.toNat]⟩
  | .shri vd va imm16 => ⟨.shri, [.v vd.toNat, .v va.toNat, .imm imm16.toNat]⟩
  | .bit sd va sb => ⟨.bit, [.s sd.toNat, .v va.toNat, .s sb.toNat]⟩
  | .setbit vd va sb => ⟨.setbit, [.v vd.toNat, .v va.toNat, .s sb.toNat]⟩
  | .clrbit vd va sb => ⟨.clrbit, [.v vd.toNat, .v va.toNat, .s sb.toNat]⟩
  | .flipbit vd va sb => ⟨.flipbit, [.v vd.toNat, .v va.toNat, .s sb.toNat]⟩
  | .clz sd va => ⟨.clz, [.s sd.toNat, .v va.toNat]⟩
  | .ctz sd va => ⟨.ctz, [.s sd.toNat, .v va.toNat]⟩
  | .popc sd va => ⟨.popc, [.s sd.toNat, .v va.toNat]⟩
  | .eq sd va vb => ⟨.eq, [.s sd.toNat, .v va.toNat, .v vb.toNat]⟩
  | .ne sd va vb => ⟨.ne, [.s sd.toNat, .v va.toNat, .v vb.toNat]⟩
  | .lt sd va vb => ⟨.lt, [.s sd.toNat, .v va.toNat, .v vb.toNat]⟩
  | .le sd va vb => ⟨.le, [.s sd.toNat, .v va.toNat, .v vb.toNat]⟩
  | .gt sd va vb => ⟨.gt, [.s sd.toNat, .v va.toNat, .v vb.toNat]⟩
  | .ge sd va vb => ⟨.ge, [.s sd.toNat, .v va.toNat, .v vb.toNat]⟩
  | .cmp sd va vb => ⟨.cmp, [.s sd.toNat, .v va.toNat, .v vb.toNat]⟩
  | .isodd sd va => ⟨.isodd, [.s sd.toNat, .v va.toNat]⟩
  | .iseven sd va => ⟨.iseven, [.s sd.toNat, .v va.toNat]⟩
  | .min vd va vb => ⟨.min, [.v vd.toNat, .v va.toNat, .v vb.toNat]⟩
  | .max vd va vb => ⟨.max, [.v vd.toNat, .v va.toNat, .v vb.toNat]⟩
  | .froms vd sa => ⟨.froms, [.v vd.toNat, .s sa.toNat]⟩
  | .fromw vd sa sb => ⟨.fromw, [.v vd.toNat, .s sa.toNat, .s sb.toNat]⟩
  | .fromle vd sa sb => ⟨.fromle, [.v vd.toNat, .s sa.toNat, .s sb.toNat]⟩
  | .frombe vd sa sb => ⟨.frombe, [.v vd.toNat, .s sa.toNat, .s sb.toNat]⟩
  | .tow va sb => ⟨.tow, [.v va.toNat, .s sb.toNat]⟩
  | .tole va sb => ⟨.tole, [.v va.toNat, .s sb.toNat]⟩
  | .tobe va sb => ⟨.tobe, [.v va.toNat, .s sb.toNat]⟩
  | .dec sd va sb => ⟨.dec, [.s sd.toNat, .v va.toNat, .s sb.toNat]⟩
  | .hex sd va sb => ⟨.hex, [.s sd.toNat, .v va.toNat, .s sb.toNat]⟩
  | .pdec sd pa sb => ⟨.pdec, [.s sd.toNat, .p pa.toNat, .s sb.toNat]⟩
  | .sli sd imm16 => ⟨.sli, [.s sd.toNat, .imm imm16.toNat]⟩
  | .sshi sd imm16 => ⟨.sshi, [.s sd.toNat, .imm imm16.toNat]⟩
  | .lds sd sa => ⟨.lds, [.s sd.toNat, .s sa.toNat]⟩
  | .sts sa sb => ⟨.sts, [.s sa.toNat, .s sb.toNat]⟩
  | .smov sd sa => ⟨.smov, [.s sd.toNat, .s sa.toNat]⟩

/-! The operand lists of each shape: the right files, the numbers taken as they stand. -/

def operandsVV (k : VReg → VReg → Instr) : List Operand → Option Instr
  | [.v d, .v a] => some (k (BitVec.ofNat 4 d) (BitVec.ofNat 4 a))
  | _ => none

def operandsV (k : VReg → Instr) : List Operand → Option Instr
  | [.v d] => some (k (BitVec.ofNat 4 d))
  | _ => none

def operandsVVV (k : VReg → VReg → VReg → Instr) : List Operand → Option Instr
  | [.v d, .v a, .v b] => some (k (BitVec.ofNat 4 d) (BitVec.ofNat 4 a) (BitVec.ofNat 4 b))
  | _ => none

def operandsPVV (k : PReg → VReg → VReg → Instr) : List Operand → Option Instr
  | [.p d, .v a, .v b] => some (k (BitVec.ofNat 2 d) (BitVec.ofNat 4 a) (BitVec.ofNat 4 b))
  | _ => none

def operandsVP (k : VReg → PReg → Instr) : List Operand → Option Instr
  | [.v d, .p a] => some (k (BitVec.ofNat 4 d) (BitVec.ofNat 2 a))
  | _ => none

def operandsSP (k : SReg → PReg → Instr) : List Operand → Option Instr
  | [.s d, .p a] => some (k (BitVec.ofNat 4 d) (BitVec.ofNat 2 a))
  | _ => none

def operandsVVS (k : VReg → VReg → SReg → Instr) : List Operand → Option Instr
  | [.v d, .v a, .s b] => some (k (BitVec.ofNat 4 d) (BitVec.ofNat 4 a) (BitVec.ofNat 4 b))
  | _ => none

def operandsVVI (k : VReg → VReg → Imm16 → Instr) : List Operand → Option Instr
  | [.v d, .v a, .imm b] => some (k (BitVec.ofNat 4 d) (BitVec.ofNat 4 a) (BitVec.ofInt 16 b))
  | _ => none

def operandsSVS (k : SReg → VReg → SReg → Instr) : List Operand → Option Instr
  | [.s d, .v a, .s b] => some (k (BitVec.ofNat 4 d) (BitVec.ofNat 4 a) (BitVec.ofNat 4 b))
  | _ => none

def operandsSV (k : SReg → VReg → Instr) : List Operand → Option Instr
  | [.s d, .v a] => some (k (BitVec.ofNat 4 d) (BitVec.ofNat 4 a))
  | _ => none

def operandsSVV (k : SReg → VReg → VReg → Instr) : List Operand → Option Instr
  | [.s d, .v a, .v b] => some (k (BitVec.ofNat 4 d) (BitVec.ofNat 4 a) (BitVec.ofNat 4 b))
  | _ => none

def operandsVS (k : VReg → SReg → Instr) : List Operand → Option Instr
  | [.v d, .s a] => some (k (BitVec.ofNat 4 d) (BitVec.ofNat 4 a))
  | _ => none

def operandsVSS (k : VReg → SReg → SReg → Instr) : List Operand → Option Instr
  | [.v d, .s a, .s b] => some (k (BitVec.ofNat 4 d) (BitVec.ofNat 4 a) (BitVec.ofNat 4 b))
  | _ => none

def operandsSPS (k : SReg → PReg → SReg → Instr) : List Operand → Option Instr
  | [.s d, .p a, .s b] => some (k (BitVec.ofNat 4 d) (BitVec.ofNat 2 a) (BitVec.ofNat 4 b))
  | _ => none

def operandsSI (k : SReg → Imm16 → Instr) : List Operand → Option Instr
  | [.s d, .imm a] => some (k (BitVec.ofNat 4 d) (BitVec.ofInt 16 a))
  | _ => none

def operandsSS (k : SReg → SReg → Instr) : List Operand → Option Instr
  | [.s d, .s a] => some (k (BitVec.ofNat 4 d) (BitVec.ofNat 4 a))
  | _ => none

/-- The command of a line whose operands have the right files. -/
def Line.instr? (l : Line) : Option Instr :=
  match l.mnemonic with
  | .nop => if l.operands = [] then some .nop else none
  | .mov => operandsVV .mov l.operands
  | .zero => operandsV .zero l.operands
  | .one => operandsV .one l.operands
  | .maxv => operandsV .maxv l.operands
  | .add => operandsVVV .add l.operands
  | .sub => operandsVVV .sub l.operands
  | .mul => operandsPVV .mul l.operands
  | .div => operandsVVV .div l.operands
  | .mod => operandsVVV .mod l.operands
  | .plo => operandsVP .plo l.operands
  | .phi => operandsVP .phi l.operands
  | .pisz => operandsSP .pisz l.operands
  | .and => operandsVVV .and l.operands
  | .or => operandsVVV .or l.operands
  | .xor => operandsVVV .xor l.operands
  | .not => operandsVV .not l.operands
  | .shl => operandsVVS .shl l.operands
  | .shr => operandsVVS .shr l.operands
  | .shli => operandsVVI .shli l.operands
  | .shri => operandsVVI .shri l.operands
  | .bit => operandsSVS .bit l.operands
  | .setbit => operandsVVS .setbit l.operands
  | .clrbit => operandsVVS .clrbit l.operands
  | .flipbit => operandsVVS .flipbit l.operands
  | .clz => operandsSV .clz l.operands
  | .ctz => operandsSV .ctz l.operands
  | .popc => operandsSV .popc l.operands
  | .eq => operandsSVV .eq l.operands
  | .ne => operandsSVV .ne l.operands
  | .lt => operandsSVV .lt l.operands
  | .le => operandsSVV .le l.operands
  | .gt => operandsSVV .gt l.operands
  | .ge => operandsSVV .ge l.operands
  | .cmp => operandsSVV .cmp l.operands
  | .isodd => operandsSV .isodd l.operands
  | .iseven => operandsSV .iseven l.operands
  | .min => operandsVVV .min l.operands
  | .max => operandsVVV .max l.operands
  | .froms => operandsVS .froms l.operands
  | .fromw => operandsVSS .fromw l.operands
  | .fromle => operandsVSS .fromle l.operands
  | .frombe => operandsVSS .frombe l.operands
  | .tow => operandsVS .tow l.operands
  | .tole => operandsVS .tole l.operands
  | .tobe => operandsVS .tobe l.operands
  | .dec => operandsSVS .dec l.operands
  | .hex => operandsSVS .hex l.operands
  | .pdec => operandsSPS .pdec l.operands
  | .sli => operandsSI .sli l.operands
  | .sshi => operandsSI .sshi l.operands
  | .lds => operandsSS .lds l.operands
  | .sts => operandsSS .sts l.operands
  | .smov => operandsSS .smov l.operands

/-- Assembles a line: none where it is an assembly error (30_encoding.md R83). -/
def assemble (l : Line) : Option Instr :=
  if l.wf then l.instr? else none

end Sys2Proof
end

