-- ==== Sys2Proof/Decode.lean ====
section
/-! DEFINITION. Decoding a command word, total and rejecting by name, and the encoder (30_encoding.md R70 to R78). -/

namespace Sys2Proof

/-- Why a word is no command (30_encoding.md R78). Whichever it is, an accepted illegal word raises
`IllegalCommand`. -/
inductive Illegal where
  /-- The opcode byte is not in the opcode map. -/
  | unassignedOpcode
  /-- A listed opcode with a 1 in a must-be-zero bit (R71). -/
  | mustBeZeroBit
  /-- A wide register slot whose top two bits are not 00 (R72). -/
  | wideSlot
  deriving DecidableEq, Repr

/-! The fields of a command word (30_encoding.md R71). -/

/-- Bits [31:24], the opcode `op`. -/
def opByte (c : Word32) : BitVec 8 := c.extractLsb' 24 8

/-- Bits [23:20], slot d. -/
def slotD (c : Word32) : BitVec 4 := c.extractLsb' 20 4

/-- Bits [19:16], slot a. -/
def slotA (c : Word32) : BitVec 4 := c.extractLsb' 16 4

/-- Bits [15:12], slot b. -/
def slotB (c : Word32) : BitVec 4 := c.extractLsb' 12 4

/-- Bits [11:0], must be zero in every format without an immediate (R73). -/
def lowBits (c : Word32) : BitVec 12 := c.extractLsb' 0 12

/-- Bits [15:0], the immediate `imm16`. -/
def immField (c : Word32) : Imm16 := c.extractLsb' 0 16

/-- The opcode of each mnemonic (30_encoding.md R76, column "op"). -/
def Mnemonic.opcode : Mnemonic → BitVec 8
  | .nop => 0x00#8
  | .mov => 0x01#8
  | .zero => 0x02#8
  | .one => 0x03#8
  | .maxv => 0x04#8
  | .add => 0x10#8
  | .sub => 0x11#8
  | .mul => 0x12#8
  | .div => 0x13#8
  | .mod => 0x14#8
  | .plo => 0x18#8
  | .phi => 0x19#8
  | .pisz => 0x1A#8
  | .and => 0x20#8
  | .or => 0x21#8
  | .xor => 0x22#8
  | .not => 0x23#8
  | .shl => 0x24#8
  | .shr => 0x25#8
  | .shli => 0x26#8
  | .shri => 0x27#8
  | .bit => 0x28#8
  | .setbit => 0x29#8
  | .clrbit => 0x2A#8
  | .flipbit => 0x2B#8
  | .clz => 0x2C#8
  | .ctz => 0x2D#8
  | .popc => 0x2E#8
  | .eq => 0x30#8
  | .ne => 0x31#8
  | .lt => 0x32#8
  | .le => 0x33#8
  | .gt => 0x34#8
  | .ge => 0x35#8
  | .cmp => 0x36#8
  | .isodd => 0x37#8
  | .iseven => 0x38#8
  | .min => 0x39#8
  | .max => 0x3A#8
  | .froms => 0x40#8
  | .fromw => 0x41#8
  | .fromle => 0x42#8
  | .frombe => 0x43#8
  | .tow => 0x44#8
  | .tole => 0x45#8
  | .tobe => 0x46#8
  | .dec => 0x47#8
  | .hex => 0x48#8
  | .pdec => 0x49#8
  | .sli => 0x50#8
  | .sshi => 0x51#8
  | .lds => 0x52#8
  | .sts => 0x53#8
  | .smov => 0x54#8

/-- "match" of the opcode map: the word with every operand field 0 (30_encoding.md R76). -/
def Mnemonic.pat : Mnemonic → Word32
  | .nop => 0x00000000#32
  | .mov => 0x01000000#32
  | .zero => 0x02000000#32
  | .one => 0x03000000#32
  | .maxv => 0x04000000#32
  | .add => 0x10000000#32
  | .sub => 0x11000000#32
  | .mul => 0x12000000#32
  | .div => 0x13000000#32
  | .mod => 0x14000000#32
  | .plo => 0x18000000#32
  | .phi => 0x19000000#32
  | .pisz => 0x1A000000#32
  | .and => 0x20000000#32
  | .or => 0x21000000#32
  | .xor => 0x22000000#32
  | .not => 0x23000000#32
  | .shl => 0x24000000#32
  | .shr => 0x25000000#32
  | .shli => 0x26000000#32
  | .shri => 0x27000000#32
  | .bit => 0x28000000#32
  | .setbit => 0x29000000#32
  | .clrbit => 0x2A000000#32
  | .flipbit => 0x2B000000#32
  | .clz => 0x2C000000#32
  | .ctz => 0x2D000000#32
  | .popc => 0x2E000000#32
  | .eq => 0x30000000#32
  | .ne => 0x31000000#32
  | .lt => 0x32000000#32
  | .le => 0x33000000#32
  | .gt => 0x34000000#32
  | .ge => 0x35000000#32
  | .cmp => 0x36000000#32
  | .isodd => 0x37000000#32
  | .iseven => 0x38000000#32
  | .min => 0x39000000#32
  | .max => 0x3A000000#32
  | .froms => 0x40000000#32
  | .fromw => 0x41000000#32
  | .fromle => 0x42000000#32
  | .frombe => 0x43000000#32
  | .tow => 0x44000000#32
  | .tole => 0x45000000#32
  | .tobe => 0x46000000#32
  | .dec => 0x47000000#32
  | .hex => 0x48000000#32
  | .pdec => 0x49000000#32
  | .sli => 0x50000000#32
  | .sshi => 0x51000000#32
  | .lds => 0x52000000#32
  | .sts => 0x53000000#32
  | .smov => 0x54000000#32

/-- "mask" of the opcode map: a 1 in every bit the decoder compares (30_encoding.md R76). -/
def Mnemonic.mask : Mnemonic → Word32
  | .nop => 0xFFFFFFFF#32
  | .mov => 0xFF00FFFF#32
  | .zero => 0xFF0FFFFF#32
  | .one => 0xFF0FFFFF#32
  | .maxv => 0xFF0FFFFF#32
  | .add => 0xFF000FFF#32
  | .sub => 0xFF000FFF#32
  | .mul => 0xFFC00FFF#32
  | .div => 0xFF000FFF#32
  | .mod => 0xFF000FFF#32
  | .plo => 0xFF0CFFFF#32
  | .phi => 0xFF0CFFFF#32
  | .pisz => 0xFF0CFFFF#32
  | .and => 0xFF000FFF#32
  | .or => 0xFF000FFF#32
  | .xor => 0xFF000FFF#32
  | .not => 0xFF00FFFF#32
  | .shl => 0xFF000FFF#32
  | .shr => 0xFF000FFF#32
  | .shli => 0xFF000000#32
  | .shri => 0xFF000000#32
  | .bit => 0xFF000FFF#32
  | .setbit => 0xFF000FFF#32
  | .clrbit => 0xFF000FFF#32
  | .flipbit => 0xFF000FFF#32
  | .clz => 0xFF00FFFF#32
  | .ctz => 0xFF00FFFF#32
  | .popc => 0xFF00FFFF#32
  | .eq => 0xFF000FFF#32
  | .ne => 0xFF000FFF#32
  | .lt => 0xFF000FFF#32
  | .le => 0xFF000FFF#32
  | .gt => 0xFF000FFF#32
  | .ge => 0xFF000FFF#32
  | .cmp => 0xFF000FFF#32
  | .isodd => 0xFF00FFFF#32
  | .iseven => 0xFF00FFFF#32
  | .min => 0xFF000FFF#32
  | .max => 0xFF000FFF#32
  | .froms => 0xFF00FFFF#32
  | .fromw => 0xFF000FFF#32
  | .fromle => 0xFF000FFF#32
  | .frombe => 0xFF000FFF#32
  | .tow => 0xFFF00FFF#32
  | .tole => 0xFFF00FFF#32
  | .tobe => 0xFFF00FFF#32
  | .dec => 0xFF000FFF#32
  | .hex => 0xFF000FFF#32
  | .pdec => 0xFF0C0FFF#32
  | .sli => 0xFF0F0000#32
  | .sshi => 0xFF0F0000#32
  | .lds => 0xFF00FFFF#32
  | .sts => 0xFFF00FFF#32
  | .smov => 0xFF00FFFF#32

/-- The mnemonic whose opcode a byte is; every byte not listed is unassigned (30_encoding.md R76, R78). -/
def mnemonicOf (op : BitVec 8) : Option Mnemonic :=
  match op.toNat with
  | 0x00 => some .nop
  | 0x01 => some .mov
  | 0x02 => some .zero
  | 0x03 => some .one
  | 0x04 => some .maxv
  | 0x10 => some .add
  | 0x11 => some .sub
  | 0x12 => some .mul
  | 0x13 => some .div
  | 0x14 => some .mod
  | 0x18 => some .plo
  | 0x19 => some .phi
  | 0x1A => some .pisz
  | 0x20 => some .and
  | 0x21 => some .or
  | 0x22 => some .xor
  | 0x23 => some .not
  | 0x24 => some .shl
  | 0x25 => some .shr
  | 0x26 => some .shli
  | 0x27 => some .shri
  | 0x28 => some .bit
  | 0x29 => some .setbit
  | 0x2A => some .clrbit
  | 0x2B => some .flipbit
  | 0x2C => some .clz
  | 0x2D => some .ctz
  | 0x2E => some .popc
  | 0x30 => some .eq
  | 0x31 => some .ne
  | 0x32 => some .lt
  | 0x33 => some .le
  | 0x34 => some .gt
  | 0x35 => some .ge
  | 0x36 => some .cmp
  | 0x37 => some .isodd
  | 0x38 => some .iseven
  | 0x39 => some .min
  | 0x3A => some .max
  | 0x40 => some .froms
  | 0x41 => some .fromw
  | 0x42 => some .fromle
  | 0x43 => some .frombe
  | 0x44 => some .tow
  | 0x45 => some .tole
  | 0x46 => some .tobe
  | 0x47 => some .dec
  | 0x48 => some .hex
  | 0x49 => some .pdec
  | 0x50 => some .sli
  | 0x51 => some .sshi
  | 0x52 => some .lds
  | 0x53 => some .sts
  | 0x54 => some .smov
  | _ => none

/-! The formats (30_encoding.md R73): each checks its must-be-zero bits and hands on the slots it has. -/

/-- Format N. -/
def formatN (c : Word32) (k : Except Illegal Instr) : Except Illegal Instr :=
  if slotD c = 0 ∧ slotA c = 0 ∧ slotB c = 0 ∧ lowBits c = 0 then k else .error .mustBeZeroBit

/-- Format R1: slot d. -/
def formatR1 (c : Word32) (k : BitVec 4 → Except Illegal Instr) : Except Illegal Instr :=
  if slotA c = 0 ∧ slotB c = 0 ∧ lowBits c = 0 then k (slotD c) else .error .mustBeZeroBit

/-- Format R2: slots d, a. -/
def formatR2 (c : Word32) (k : BitVec 4 → BitVec 4 → Except Illegal Instr) : Except Illegal Instr :=
  if slotB c = 0 ∧ lowBits c = 0 then k (slotD c) (slotA c) else .error .mustBeZeroBit

/-- Format R3: slots d, a, b. -/
def formatR3 (c : Word32) (k : BitVec 4 → BitVec 4 → BitVec 4 → Except Illegal Instr) : Except Illegal Instr :=
  if lowBits c = 0 then k (slotD c) (slotA c) (slotB c) else .error .mustBeZeroBit

/-- Format S2: slots a, b. -/
def formatS2 (c : Word32) (k : BitVec 4 → BitVec 4 → Except Illegal Instr) : Except Illegal Instr :=
  if slotD c = 0 ∧ lowBits c = 0 then k (slotA c) (slotB c) else .error .mustBeZeroBit

/-- Format I1: slot d and the immediate. -/
def formatI1 (c : Word32) (k : BitVec 4 → Imm16 → Except Illegal Instr) : Except Illegal Instr :=
  if slotA c = 0 then k (slotD c) (immField c) else .error .mustBeZeroBit

/-- Format I2: slots d, a and the immediate. -/
def formatI2 (c : Word32) (k : BitVec 4 → BitVec 4 → Imm16 → Except Illegal Instr) : Except Illegal Instr :=
  k (slotD c) (slotA c) (immField c)

/-- A slot that holds a wide register index: its top two bits must be 0 (30_encoding.md R72). -/
def wideIndex (slot : BitVec 4) (k : PReg → Except Illegal Instr) : Except Illegal Instr :=
  if slot.extractLsb' 2 2 = 0#2 then k (slot.extractLsb' 0 2) else .error .wideSlot

/-- Reads the operand fields of a word of the given mnemonic (30_encoding.md R77, formats of R73). -/
def decodeAs (m : Mnemonic) (c : Word32) : Except Illegal Instr :=
  match m with
  | .nop => formatN c (.ok .nop)
  | .mov => formatR2 c fun d a => .ok (.mov d a)
  | .zero => formatR1 c fun d => .ok (.zero d)
  | .one => formatR1 c fun d => .ok (.one d)
  | .maxv => formatR1 c fun d => .ok (.maxv d)
  | .add => formatR3 c fun d a b => .ok (.add d a b)
  | .sub => formatR3 c fun d a b => .ok (.sub d a b)
  | .mul => formatR3 c fun d a b => wideIndex d fun p => .ok (.mul p a b)
  | .div => formatR3 c fun d a b => .ok (.div d a b)
  | .mod => formatR3 c fun d a b => .ok (.mod d a b)
  | .plo => formatR2 c fun d a => wideIndex a fun p => .ok (.plo d p)
  | .phi => formatR2 c fun d a => wideIndex a fun p => .ok (.phi d p)
  | .pisz => formatR2 c fun d a => wideIndex a fun p => .ok (.pisz d p)
  | .and => formatR3 c fun d a b => .ok (.and d a b)
  | .or => formatR3 c fun d a b => .ok (.or d a b)
  | .xor => formatR3 c fun d a b => .ok (.xor d a b)
  | .not => formatR2 c fun d a => .ok (.not d a)
  | .shl => formatR3 c fun d a b => .ok (.shl d a b)
  | .shr => formatR3 c fun d a b => .ok (.shr d a b)
  | .shli => formatI2 c fun d a x => .ok (.shli d a x)
  | .shri => formatI2 c fun d a x => .ok (.shri d a x)
  | .bit => formatR3 c fun d a b => .ok (.bit d a b)
  | .setbit => formatR3 c fun d a b => .ok (.setbit d a b)
  | .clrbit => formatR3 c fun d a b => .ok (.clrbit d a b)
  | .flipbit => formatR3 c fun d a b => .ok (.flipbit d a b)
  | .clz => formatR2 c fun d a => .ok (.clz d a)
  | .ctz => formatR2 c fun d a => .ok (.ctz d a)
  | .popc => formatR2 c fun d a => .ok (.popc d a)
  | .eq => formatR3 c fun d a b => .ok (.eq d a b)
  | .ne => formatR3 c fun d a b => .ok (.ne d a b)
  | .lt => formatR3 c fun d a b => .ok (.lt d a b)
  | .le => formatR3 c fun d a b => .ok (.le d a b)
  | .gt => formatR3 c fun d a b => .ok (.gt d a b)
  | .ge => formatR3 c fun d a b => .ok (.ge d a b)
  | .cmp => formatR3 c fun d a b => .ok (.cmp d a b)
  | .isodd => formatR2 c fun d a => .ok (.isodd d a)
  | .iseven => formatR2 c fun d a => .ok (.iseven d a)
  | .min => formatR3 c fun d a b => .ok (.min d a b)
  | .max => formatR3 c fun d a b => .ok (.max d a b)
  | .froms => formatR2 c fun d a => .ok (.froms d a)
  | .fromw => formatR3 c fun d a b => .ok (.fromw d a b)
  | .fromle => formatR3 c fun d a b => .ok (.fromle d a b)
  | .frombe => formatR3 c fun d a b => .ok (.frombe d a b)
  | .tow => formatS2 c fun a b => .ok (.tow a b)
  | .tole => formatS2 c fun a b => .ok (.tole a b)
  | .tobe => formatS2 c fun a b => .ok (.tobe a b)
  | .dec => formatR3 c fun d a b => .ok (.dec d a b)
  | .hex => formatR3 c fun d a b => .ok (.hex d a b)
  | .pdec => formatR3 c fun d a b => wideIndex a fun p => .ok (.pdec d p b)
  | .sli => formatI1 c fun d x => .ok (.sli d x)
  | .sshi => formatI1 c fun d x => .ok (.sshi d x)
  | .lds => formatR2 c fun d a => .ok (.lds d a)
  | .sts => formatS2 c fun a b => .ok (.sts a b)
  | .smov => formatR2 c fun d a => .ok (.smov d a)

/-- Decodes a command word (30_encoding.md R77): the opcode selects the row, then its must-be-zero bits are checked
and its operand fields read. -/
def decode (c : Word32) : Except Illegal Instr :=
  match mnemonicOf (opByte c) with
  | none => .error .unassignedOpcode
  | some m => decodeAs m c

/-! The encoder, written from the same tables (30_encoding.md R71 to R74, R76). -/

/-- A word of formats N, R1, R2, R3 and S2 from its opcode and its three slots. -/
def slotsWord (m : Mnemonic) (d a b : BitVec 4) : Word32 := m.opcode ++ d ++ a ++ b ++ 0#12

/-- A word of formats I1 and I2 from its opcode, its two slots and its immediate. -/
def immWord (m : Mnemonic) (d a : BitVec 4) (x : Imm16) : Word32 := m.opcode ++ d ++ a ++ x

/-- A wide register index in its slot: the top two bits are 0 (30_encoding.md R72). -/
def wideSlot (p : PReg) : BitVec 4 := 0#2 ++ p

/-- The command word of a command (30_encoding.md R70). -/
def encode : Instr → Word32
  | .nop => slotsWord .nop 0 0 0
  | .mov vd va => slotsWord .mov vd va 0
  | .zero vd => slotsWord .zero vd 0 0
  | .one vd => slotsWord .one vd 0 0
  | .maxv vd => slotsWord .maxv vd 0 0
  | .add vd va vb => slotsWord .add vd va vb
  | .sub vd va vb => slotsWord .sub vd va vb
  | .mul pd va vb => slotsWord .mul (wideSlot pd) va vb
  | .div vd va vb => slotsWord .div vd va vb
  | .mod vd va vb => slotsWord .mod vd va vb
  | .plo vd pa => slotsWord .plo vd (wideSlot pa) 0
  | .phi vd pa => slotsWord .phi vd (wideSlot pa) 0
  | .pisz sd pa => slotsWord .pisz sd (wideSlot pa) 0
  | .and vd va vb => slotsWord .and vd va vb
  | .or vd va vb => slotsWord .or vd va vb
  | .xor vd va vb => slotsWord .xor vd va vb
  | .not vd va => slotsWord .not vd va 0
  | .shl vd va sb => slotsWord .shl vd va sb
  | .shr vd va sb => slotsWord .shr vd va sb
  | .shli vd va imm16 => immWord .shli vd va imm16
  | .shri vd va imm16 => immWord .shri vd va imm16
  | .bit sd va sb => slotsWord .bit sd va sb
  | .setbit vd va sb => slotsWord .setbit vd va sb
  | .clrbit vd va sb => slotsWord .clrbit vd va sb
  | .flipbit vd va sb => slotsWord .flipbit vd va sb
  | .clz sd va => slotsWord .clz sd va 0
  | .ctz sd va => slotsWord .ctz sd va 0
  | .popc sd va => slotsWord .popc sd va 0
  | .eq sd va vb => slotsWord .eq sd va vb
  | .ne sd va vb => slotsWord .ne sd va vb
  | .lt sd va vb => slotsWord .lt sd va vb
  | .le sd va vb => slotsWord .le sd va vb
  | .gt sd va vb => slotsWord .gt sd va vb
  | .ge sd va vb => slotsWord .ge sd va vb
  | .cmp sd va vb => slotsWord .cmp sd va vb
  | .isodd sd va => slotsWord .isodd sd va 0
  | .iseven sd va => slotsWord .iseven sd va 0
  | .min vd va vb => slotsWord .min vd va vb
  | .max vd va vb => slotsWord .max vd va vb
  | .froms vd sa => slotsWord .froms vd sa 0
  | .fromw vd sa sb => slotsWord .fromw vd sa sb
  | .fromle vd sa sb => slotsWord .fromle vd sa sb
  | .frombe vd sa sb => slotsWord .frombe vd sa sb
  | .tow va sb => slotsWord .tow 0 va sb
  | .tole va sb => slotsWord .tole 0 va sb
  | .tobe va sb => slotsWord .tobe 0 va sb
  | .dec sd va sb => slotsWord .dec sd va sb
  | .hex sd va sb => slotsWord .hex sd va sb
  | .pdec sd pa sb => slotsWord .pdec sd (wideSlot pa) sb
  | .sli sd imm16 => immWord .sli sd 0 imm16
  | .sshi sd imm16 => immWord .sshi sd 0 imm16
  | .lds sd sa => slotsWord .lds sd sa 0
  | .sts sa sb => slotsWord .sts 0 sa sb
  | .smov sd sa => slotsWord .smov sd sa 0

/-- What the decoder reads from a word of the opcode table: the low `nbits` bits of `w`, every bit above them 0. -/
def decodeTableWord (nbits w : Nat) : Option Instr :=
  match decode (BitVec.ofNat 32 (w % 2 ^ nbits)) with
  | .ok i => some i
  | .error _ => none

end Sys2Proof
end

