-- ==== Sys2Proof/Config.lean ====
section
/-! DEFINITION. What an instance of the block fixes (00_scope.md R2, R6, R8; 10_state.md R30 to R32), and the
free values of this model. -/

namespace Sys2Proof

/-- The two instances of the hardware: N = 8 and N = 16 (00_scope.md R6, 92_eei_decisions.md D3). -/
inductive Instance where
  | n8
  | n16
  deriving DecidableEq, Repr

/-- `NWORDS`, the number N of 64-bit words in one value (00_scope.md R6). -/
def Instance.nwords : Instance → Nat
  | .n8 => 8
  | .n16 => 16

/-- Which bytes an over-long big-endian input keeps (44_codec.md R234, 92_eei_decisions.md D20). -/
inductive BeOverlong where
  | keepLow
  | keepHigh
  deriving DecidableEq, Repr

namespace Config

/-- `BE_OVERLONG` of this hardware (00_scope.md R8). -/
def beOverlong : BeOverlong := .keepLow

/-- NVREG (00_scope.md R8). -/
abbrev nvreg : Nat := 16

/-- NPREG (00_scope.md R8). -/
abbrev npreg : Nat := 4

/-- NSREG (00_scope.md R8). -/
abbrev nsreg : Nat := 16

/-- BUFSIZE, the number of bytes of `BUF` (00_scope.md R8, 10_state.md R32). -/
abbrev bufSize : Nat := 4096

/-- The content of `ID`, the ASCII codes of "GUIN" (10_state.md R30). -/
def idValue : Word32 := 0x4755494E

/-- FREE VALUE. What value register `r` holds after the platform's `k`-th reset (70_reset_and_hazards.md R341,
R342: unspecified). It has no body: no proof can rest on a value of it (assumption log 3). -/
opaque resetV (k : Nat) (r : VReg) : Nat

/-- FREE VALUE. What wide register `r` holds after the platform's `k`-th reset (R341, assumption log 3). -/
opaque resetP (k : Nat) (r : PReg) : Nat

/-- FREE VALUE. What scalar register `r` holds after the platform's `k`-th reset (R341, assumption log 3). -/
opaque resetS (k : Nat) (r : SReg) : Scalar

end Config

end Sys2Proof
end

