-- ==== Sys2Proof/Machine/State.lean ====
section
/-! DEFINITION. The state of the block and of its environment as plain data (10_state.md R20 to R38), the reasons a
step can stop, and the state after reset (70_reset_and_hazards.md R340). -/

namespace Sys2Proof.Machine

/-- The value and wide register files of an instance with `n` words per value: V, 16 registers of W = 64·n bits
(10_state.md R20), and P, 4 registers of 2W = 128·n bits (R22). -/
structure FileSet (n : Nat) where
  v : Vector (BitVec (64 * n)) 16
  p : Vector (BitVec (128 * n)) 4
  deriving DecidableEq, Repr

/-- V and P at the width of the instance: an instance has one fixed N, 8 or 16 (00_scope.md R6). -/
inductive Files where
  | n8 (f : FileSet 8)
  | n16 (f : FileSet 16)
  deriving DecidableEq, Repr

/-- The content of `BUF` (10_state.md R26): the written bytes as (address, byte) pairs, addresses strictly rising.
An address that is not listed is unwritten (70_reset_and_hazards.md R341): it reads as no value. -/
abbrev Memory := List Host.Cell

/-- The error causes (60_exceptions.md R300). -/
inductive ErrorCause where
  | divisionByZero
  | illegalCommand
  | bufferRange
  deriving DecidableEq, Repr

/-- The engine phase and, while BUSY, the accepted command word (10_state.md R37 (a), (b), R38). -/
inductive Phase where
  | idle
  | busy (command : Word32)
  deriving DecidableEq, Repr

/-- The width of a host access: 1, 2 or 4 bytes (20_memory.md R41). -/
inductive AccessWidth where
  | byte
  | half
  | word
  deriving DecidableEq, Repr

/-- A host access (20_memory.md R40, R41). A write of 1 or 2 bytes stores the low 8 or 16 bits of `data`. -/
inductive HostAccess where
  | read (offset : HostOffset) (width : AccessWidth)
  | write (offset : HostOffset) (width : AccessWidth) (data : Word32)
  deriving DecidableEq, Repr

/-- What becomes of an access that R51 holds when reset is asserted (70_reset_and_hazards.md R342,
93_implementation_defined.md I5: the platform's to complete or abort, a held read may return any value).
`notHeld`: the host had not issued it yet. It says nothing of an access that is not held (assumption log 3). -/
inductive HeldFate where
  | notHeld
  | aborted
  | completed (data : Word32)
  deriving DecidableEq, Repr

/-- Which agent moves at a step: the engine, the host, or the platform asserting reset (20_memory.md R51,
70_reset_and_hazards.md R340, R342, R352). -/
inductive Turn where
  | engine
  | host
  | reset (fate : HeldFate)
  deriving DecidableEq, Repr

/-- The machine: the architectural state of 10_state.md R38, then the model's own fields (assumption log 2, 3) for
the agents outside the block. STATUS.BUSY is the phase (R37). -/
structure State where
  /-- V and P (10_state.md R20, R22). -/
  files : Files
  /-- S (10_state.md R24). -/
  scalars : Vector Scalar 16
  /-- `BUF` (10_state.md R26). -/
  buf : Memory
  /-- The engine phase and the accepted command (10_state.md R37). -/
  phase : Phase
  /-- STATUS.ERR (10_state.md R33). -/
  err : Bool
  /-- STATUS.DROP (10_state.md R33). -/
  drop : Bool
  /-- ERRCAUSE.CODE; `none` is code 0, no error since reset (10_state.md R34, 60_exceptions.md R300). -/
  errcause : Option ErrorCause
  /-- ERRCMD (10_state.md R35). -/
  errcmd : Word32
  /-- CMDCOUNT (10_state.md R36). -/
  cmdcount : Word32
  /-- The host's accesses still to be performed, the next one first (20_memory.md R55). -/
  pending : List HostAccess
  /-- The values the host's reads returned, in order (20_memory.md R54). -/
  returned : List Word32
  /-- Which agent moves at the next steps; past its end the engine goes first (70_reset_and_hazards.md R352). -/
  schedule : List Turn
  /-- How many resets the platform has asserted: the counter the free values of `Config` are applied to. -/
  resets : Nat
  deriving DecidableEq, Repr

/-- The reasons the machine stops. -/
inductive Fault where
  /-- A command or a window read needs the value of a `BUF` byte that nothing has written since reset. Raised by
  FROMW, FROMLE, FROMBE, LDS and host reads of the window. SAFE: 70_reset_and_hazards.md R341 calls it "a model
  fault (the safe reading)". -/
  | unwrittenByte
  deriving DecidableEq, Repr

/-- The reasons the machine refuses. -/
inductive Refusal where
  /-- An instruction rejected by name in `exec`. SAFE. No arm of this model uses it. -/
  | notModelled (mnemonic : String)
  /-- A host access that 20_memory.md R43 makes a host bus error: "A model refuses such an access". Raised by the
  host port, never by a command. SAFE. -/
  | hostBusError
  deriving DecidableEq, Repr

/-- A step's outcome on this machine. -/
abbrev Result := Host.Outcome State Fault Refusal

/-- Register files with every register at 0: the model's choice where R341 gives no value (assumption log 1). -/
def FileSet.zero (n : Nat) : FileSet n :=
  { v := Vector.replicate 16 0, p := Vector.replicate 4 0 }

/-- V and P of an instance, every register at 0 (assumption log 1). -/
def Files.zero : Instance → Files
  | .n8 => .n8 (FileSet.zero 8)
  | .n16 => .n16 (FileSet.zero 16)

/-- An instance right after reset (70_reset_and_hazards.md R340): STATUS, ERRCAUSE, ERRCMD and CMDCOUNT 0, the engine
idle; every byte of `BUF` unwritten (R341); V, P and S, which R341 leaves unspecified, at 0 (assumption log 1). No
host access is pending: the block "waits for the host's first CMD write". -/
def State.resetFor (inst : Instance) : State :=
  { files := Files.zero inst
    scalars := Vector.replicate 16 0
    buf := []
    phase := .idle
    err := false
    drop := false
    errcause := none
    errcmd := 0
    cmdcount := 0
    pending := []
    returned := []
    schedule := []
    resets := 0 }

/-- The state after reset of the N = 8 instance (assumption log 4); `State.resetFor .n16` is the other one. -/
def State.reset : State := State.resetFor .n8

end Sys2Proof.Machine
end

