-- ==== Sys2Proof/Machine/Ops.lean ====
section
/-! DEFINITION. The named operations over registers and `BUF`, error entry and its return, acceptance, discarding and
completion of a command. Every meaning is built from these. -/

namespace Sys2Proof.Machine

/-! ## Bytes and naturals (00_scope.md R9 to R12) -/

/-- The natural whose little-endian bytes these are: the first byte is the least significant (20_memory.md R48). -/
def natOfBytes : List Byte → Nat
  | [] => 0
  | b :: bs => b.toNat + 256 * natOfBytes bs

/-- The low `n` bytes of a natural, least significant first: byte k is `(x div 256^k) mod 256` (20_memory.md R47). -/
def bytesOfNat : Nat → Nat → List Byte
  | 0, _ => []
  | n + 1, x => BitVec.ofNat 8 x :: bytesOfNat n (x / 256)

/-! ## `BUF` as a list of cells -/

/-- The byte at an address; none where nothing has written it (70_reset_and_hazards.md R341). -/
def Memory.byteAt : Memory → Nat → Option Byte
  | [], _ => none
  | (k, b) :: m, a => if k = a then some b else Memory.byteAt m a

/-- The `n` bytes from an address up; none if one of them is unwritten. -/
def Memory.bytesAt (m : Memory) (a : Nat) : Nat → Option (List Byte)
  | 0 => some []
  | n + 1 =>
    match m.byteAt a, Memory.bytesAt m (a + 1) n with
    | some b, some bs => some (b :: bs)
    | _, _ => none

/-- The cells of a byte sequence laid out from an address up. -/
def cellsFrom : Nat → List Byte → Memory
  | _, [] => []
  | a, b :: bs => (a, b) :: cellsFrom (a + 1) bs

/-- Writes a byte sequence from an address up, in order (00_scope.md R12, `MemWriteBytes`): the cells below it stay,
the written ones replace those of its region, the cells above it stay. -/
def Memory.setBytes (m : Memory) (a : Nat) (bytes : List Byte) : Memory :=
  m.filter (fun c => c.1 < a) ++ cellsFrom a bytes ++ m.filter (fun c => a + bytes.length ≤ c.1)

/-- Addresses strictly rising from `lo` up, all inside `BUF`. -/
def Memory.risingFrom : Nat → Memory → Bool
  | _, [] => true
  | lo, (k, _) :: m => lo ≤ k && k < Config.bufSize && Memory.risingFrom (k + 1) m

/-- The canonical form: addresses strictly rising and below 4096. -/
def Memory.wf (m : Memory) : Bool := Memory.risingFrom 0 m

/-! ## Registers (10_state.md R20, R22, R24; 00_scope.md R12: V and P hold naturals, S holds 64-bit patterns) -/

def FileSet.readV {n : Nat} (f : FileSet n) (r : VReg) : Nat := (f.v[r.toNat]'(r.isLt)).toNat

def FileSet.readP {n : Nat} (f : FileSet n) (r : PReg) : Nat := (f.p[r.toNat]'(r.isLt)).toNat

def FileSet.writeV {n : Nat} (f : FileSet n) (r : VReg) (x : Nat) : FileSet n :=
  { f with v := f.v.set r.toNat (BitVec.ofNat (64 * n) x) (r.isLt) }

def FileSet.writeP {n : Nat} (f : FileSet n) (r : PReg) (x : Nat) : FileSet n :=
  { f with p := f.p.set r.toNat (BitVec.ofNat (128 * n) x) (r.isLt) }

/-- The instance whose files these are. -/
def Files.inst : Files → Instance
  | .n8 _ => .n8
  | .n16 _ => .n16

def Files.readV : Files → VReg → Nat
  | .n8 f, r => f.readV r
  | .n16 f, r => f.readV r

def Files.readP : Files → PReg → Nat
  | .n8 f, r => f.readP r
  | .n16 f, r => f.readP r

def Files.writeV : Files → VReg → Nat → Files
  | .n8 f, r, x => .n8 (f.writeV r x)
  | .n16 f, r, x => .n16 (f.writeV r x)

def Files.writeP : Files → PReg → Nat → Files
  | .n8 f, r, x => .n8 (f.writeP r x)
  | .n16 f, r, x => .n16 (f.writeP r x)

/-- The instance of the machine (00_scope.md R6). -/
def State.inst (s : State) : Instance := s.files.inst

/-- N, the number of words of a value (00_scope.md R6). -/
def State.nwords (s : State) : Nat := s.inst.nwords

/-- W = 64·N, the width of a value (00_scope.md R7). -/
def State.width (s : State) : Nat := 64 * s.nwords

/-- 8·N, the number of bytes of a value (00_scope.md R7). -/
def State.valueBytes (s : State) : Nat := 8 * s.nwords

/-- `V[r]` (00_scope.md R12). -/
def State.readV (s : State) (r : VReg) : Nat := s.files.readV r

/-- `P[r]` (00_scope.md R12). -/
def State.readP (s : State) (r : PReg) : Nat := s.files.readP r

/-- `S[r]`, a 64-bit pattern (30_encoding.md R75). -/
def State.readS (s : State) (r : SReg) : Scalar := s.scalars[r.toNat]'(r.isLt)

/-- `V[r] <- x`: the register keeps the low W bits. -/
def State.writeV (s : State) (r : VReg) (x : Nat) : State := { s with files := s.files.writeV r x }

/-- `P[r] <- x`: the register keeps the low 2W bits. -/
def State.writeP (s : State) (r : PReg) (x : Nat) : State := { s with files := s.files.writeP r x }

/-- `S[r] <- x`. -/
def State.writeS (s : State) (r : SReg) (x : Scalar) : State :=
  { s with scalars := s.scalars.set r.toNat x (r.isLt) }

/-- `BUF[addr ..] <- bytes`. -/
def State.storeBytes (s : State) (addr : Nat) (bytes : List Byte) : State :=
  { s with buf := s.buf.setBytes addr bytes }

/-! ## Errors (60_exceptions.md R303, R304, R307) -/

/-- `ErrorEntry(E, c)`: what an accepted command c that ends with error E does, and all it does
(60_exceptions.md R303, R304). There is no vector, no saved counter and no mode to change. -/
def State.errorEntry (e : ErrorCause) (c : Word32) (s : State) : State :=
  { s with errcause := some e, errcmd := c, err := true }

/-- `raise E`: the command ends with error E and writes nothing else (00_scope.md R12, 60_exceptions.md R303). -/
def raise (e : ErrorCause) (c : Word32) (s : State) : Result := .next (s.errorEntry e c)

/-- The return from an error: a host write to STATUS clears ERR and DROP where the datum has a 1, and changes nothing
else (60_exceptions.md R307, 10_state.md R33). -/
def State.writeStatus (s : State) (data : Word32) : State :=
  { s with err := s.err && !data.getLsbD 1, drop := s.drop && !data.getLsbD 2 }

/-! ## Acceptance, discarding, completion (20_memory.md R52, R53; 60_exceptions.md R306) -/

/-- `STATUS.BUSY` (10_state.md R37). -/
def State.isBusy (s : State) : Bool :=
  match s.phase with
  | .idle => false
  | .busy _ => true

/-- The block accepts c: BUSY <- 1, CMDCOUNT <- (CMDCOUNT + 1) mod 2^32 (20_memory.md R52). -/
def State.accept (s : State) (c : Word32) : State :=
  { s with phase := .busy c, cmdcount := s.cmdcount + 1 }

/-- `DiscardCommand(c)` (60_exceptions.md R306). -/
def State.discard (s : State) : State := { s with drop := true }

/-- `HostWriteCMD(c)` up to its execution: accepted when ERR = 0, discarded when ERR = 1 (20_memory.md R52). -/
def State.issue (s : State) (c : Word32) : State :=
  if s.err then s.discard else s.accept c

/-- The command in execution completes: BUSY <- 0 (20_memory.md R52, R53). -/
def State.complete (s : State) : State := { s with phase := .idle }

/-- What the engine's step makes of a command's outcome. -/
def completeResult : Result → Result
  | .next s => .next s.complete
  | .fault r => .fault r
  | .refused r => .refused r

/-! ## `BUF` accesses of a command (20_memory.md R46 to R49) -/

/-- `InRange(addr, n)`, computed on naturals without wrap (20_memory.md R47). -/
def inRange (addr n : Nat) : Bool := addr + n ≤ Config.bufSize

/-- A command `c` that names the region of `n` bytes at `addr` and uses the `len` bytes from `addr + skip` of it: the
whole region is range-checked (20_memory.md R47), then the used bytes are read (00_scope.md R12 `MemReadBytes`). A
discarded byte's value is not needed (assumption log 5). -/
def readRegion (c : Word32) (s : State) (addr n skip len : Nat) (k : List Byte → State) : Result :=
  if inRange addr n then
    match s.buf.bytesAt (addr + skip) len with
    | some bytes => .next (k bytes)
    | none => .fault .unwrittenByte
  else raise .bufferRange c s

/-- A command `c` that writes a byte sequence at `addr` (00_scope.md R12 `MemWriteBytes`), then does `k`: nothing
happens out of range (20_memory.md R47, 60_exceptions.md R303). -/
def writeRegion (c : Word32) (s : State) (addr : Nat) (bytes : List Byte) (k : State → State) : Result :=
  if inRange addr bytes.length then .next (k (s.storeBytes addr bytes))
  else raise .bufferRange c s

end Sys2Proof.Machine
end

