-- ==== Sys2Proof/Machine/Operands.lean ====
section
/-! DEFINITION. The forms in which a command reads its operands (30_encoding.md R74, R75) and the number notation
of 00_scope.md R10. -/

namespace Sys2Proof.Machine

/-- `bitlen(x)`, the number of bits of a natural without leading zeros; `bitlen(0) = 0` (00_scope.md R10). -/
def bitLen (x : Nat) : Nat := if x = 0 then 0 else x.log2 + 1

/-- The number of 1 bits among the low `k` bits of a natural. -/
def popCountBelow : Nat → Nat → Nat
  | 0, _ => 0
  | k + 1, x => x % 2 + popCountBelow k (x / 2)

/-- `popcount(x)`, the number of 1 bits of a natural (00_scope.md R10). -/
def popCount (x : Nat) : Nat := popCountBelow (bitLen x) x

/-- The number of 0 bits below the lowest 1 bit, looking at the low `k` bits; `k` if they are all 0. -/
def lowZeros : Nat → Nat → Nat
  | 0, _ => 0
  | k + 1, x => if x % 2 = 1 then 0 else 1 + lowZeros k (x / 2)

/-- `u64(x)`, the 64-bit two's-complement pattern of an integer (00_scope.md R10). -/
def u64 (x : Int) : Scalar := BitVec.ofInt 64 x

/-- `sext_64(x)`, the signed reading of a 64-bit pattern (00_scope.md R10). -/
def sext64 (x : Scalar) : Int := if x.getLsbD 63 then (x.toNat : Int) - 2 ^ 64 else x.toNat

/-- `zext_64(imm16)` (30_encoding.md R74). -/
def zextImm (x : Imm16) : Scalar := x.setWidth 64

/-- A scalar read as an unsigned natural: a shift count, an address, a length, a word count (30_encoding.md R75). -/
def State.natS (s : State) (r : SReg) : Nat := (s.readS r).toNat

/-- A bit index: the scalar read as a signed 64-bit number (42_bit.md R168). -/
def State.bitIndex (s : State) (r : SReg) : Int := sext64 (s.readS r)

/-- The bit a bit-access command acts on; none where the index is outside [0, W) (42_bit.md R168). -/
def State.bitPosition? (s : State) (r : SReg) : Option Nat :=
  if 0 ≤ s.bitIndex r ∧ s.bitIndex r < s.width then some (s.bitIndex r).toNat else none

end Sys2Proof.Machine
end

