-- ==== Sys2Proof/Machine/Flags.lean ====
section
/-! DEFINITION. The block has no flags and no condition codes (10_state.md R27). What stands in their place: the
scalar results that DOC returns as booleans or a tri-state (43_compare.md R200), and the STATUS and ERRCAUSE words
(10_state.md R33, R34). -/

namespace Sys2Proof.Machine

/-- A boolean result: the natural 1 for true, 0 for false (43_compare.md R200). -/
def boolScalar (b : Bool) : Scalar := if b then 1 else 0

/-- `Cmp(a, b)`: -1, 0 or 1 as the natural a is less than, equal to or greater than b (43_compare.md R200). -/
def cmpNat (a b : Nat) : Int := if a < b then -1 else if a = b then 0 else 1

/-- The codes of `ERRCAUSE.CODE` (60_exceptions.md R300). -/
def ErrorCause.code : ErrorCause → Nat
  | .divisionByZero => 1
  | .illegalCommand => 2
  | .bufferRange => 3

/-- The ERRCAUSE word: CODE in bits [7:0], the rest 0 (10_state.md R34). -/
def State.errcauseWord (s : State) : Word32 :=
  match s.errcause with
  | none => 0
  | some e => BitVec.ofNat 32 e.code

/-- The STATUS word: BUSY, ERR and DROP in bits 0, 1 and 2, the rest 0 (10_state.md R33). -/
def State.statusWord (s : State) : Word32 :=
  0#29 ++ BitVec.ofBool s.drop ++ BitVec.ofBool s.err ++ BitVec.ofBool s.isBusy

end Sys2Proof.Machine
end

