-- ==== Sys2Proof/Machine/Arithmetic.lean ====
section
/-! DEFINITION. The arithmetic commands (41_arithmetic.md R120 to R131): the exact arithmetic the reference
algorithms equal (R131). The reference algorithms themselves are in Reference.lean. -/

namespace Sys2Proof.Machine

/-- `ADD vd, va, vb` (R120): the carry out of the top word is discarded. -/
def execAdd (vd va vb : VReg) (s : State) : Result :=
  .next (s.writeV vd ((s.readV va + s.readV vb) % 2 ^ s.width))

/-- `SUB vd, va, vb` (R121): the borrow out of the top word is discarded, so `2^W + a - b` when a < b. -/
def execSub (vd va vb : VReg) (s : State) : Result :=
  .next (s.writeV vd ((2 ^ s.width + s.readV va - s.readV vb) % 2 ^ s.width))

/-- `MUL pd, va, vb` (R122): the exact product. -/
def execMul (pd : PReg) (va vb : VReg) (s : State) : Result :=
  .next (s.writeP pd (s.readV va * s.readV vb))

/-- What `DIV` and `MOD` share: DivisionByZero when V[vb] = 0, whatever V[va] is (R124, R125), else the value `f`
of dividend and divisor. -/
def divideBy (c : Word32) (f : Nat → Nat → Nat) (vd va vb : VReg) (s : State) : Result :=
  if s.readV vb = 0 then raise .divisionByZero c s
  else .next (s.writeV vd (f (s.readV va) (s.readV vb)))

/-- `DIV vd, va, vb` (R124): the floor quotient. -/
def execDiv (vd va vb : VReg) (s : State) : Result :=
  divideBy (encode (.div vd va vb)) (· / ·) vd va vb s

/-- `MOD vd, va, vb` (R125): the remainder. -/
def execMod (vd va vb : VReg) (s : State) : Result :=
  divideBy (encode (.mod vd va vb)) (· % ·) vd va vb s

/-- `PLO vd, pa` (R127): words 0 .. N-1 of the wide product. -/
def execPlo (vd : VReg) (pa : PReg) (s : State) : Result :=
  .next (s.writeV vd (s.readP pa % 2 ^ s.width))

/-- `PHI vd, pa` (R128): words N .. 2N-1 of the wide product. -/
def execPhi (vd : VReg) (pa : PReg) (s : State) : Result :=
  .next (s.writeV vd (s.readP pa / 2 ^ s.width))

/-- `PISZ sd, pa` (R129): 1 if all 2N words are zero. -/
def execPisz (sd : SReg) (pa : PReg) (s : State) : Result :=
  .next (s.writeS sd (boolScalar (s.readP pa == 0)))

end Sys2Proof.Machine
end

