-- ==== Sys2Proof/Machine/Bit.lean ====
section
/-! DEFINITION. The bit commands (42_bit.md R160 to R176): logic, shifts, single bits, counters. None can raise an
error. -/

namespace Sys2Proof.Machine

/-- `AND vd, va, vb` (R160). -/
def execAnd (vd va vb : VReg) (s : State) : Result := .next (s.writeV vd (s.readV va &&& s.readV vb))

/-- `OR vd, va, vb` (R161). -/
def execOr (vd va vb : VReg) (s : State) : Result := .next (s.writeV vd (s.readV va ||| s.readV vb))

/-- `XOR vd, va, vb` (R162). -/
def execXor (vd va vb : VReg) (s : State) : Result := .next (s.writeV vd (s.readV va ^^^ s.readV vb))

/-- `NOT vd, va` (R163): 2^W - 1 - a. -/
def execNot (vd va : VReg) (s : State) : Result := .next (s.writeV vd (2 ^ s.width - 1 - s.readV va))

/-- A value of `w` bits shifted left by `n`: 0 when n >= w, else (a · 2^n) mod 2^w (R164). -/
def shiftLeft (w a n : Nat) : Nat := if w ≤ n then 0 else (a <<< n) % 2 ^ w

/-- A value of `w` bits shifted right by `n`, zeros entering at the top: 0 when n >= w, else a div 2^n (R165). -/
def shiftRight (w a n : Nat) : Nat := if w ≤ n then 0 else a >>> n

/-- `SHL vd, va, sb` (R164). -/
def execShl (vd va : VReg) (sb : SReg) (s : State) : Result :=
  .next (s.writeV vd (shiftLeft s.width (s.readV va) (s.natS sb)))

/-- `SHR vd, va, sb` (R165). -/
def execShr (vd va : VReg) (sb : SReg) (s : State) : Result :=
  .next (s.writeV vd (shiftRight s.width (s.readV va) (s.natS sb)))

/-- `SHLI vd, va, imm16` (R166): the count is the zero-extended immediate. -/
def execShli (vd va : VReg) (imm16 : Imm16) (s : State) : Result :=
  .next (s.writeV vd (shiftLeft s.width (s.readV va) (zextImm imm16).toNat))

/-- `SHRI vd, va, imm16` (R167): the count is the zero-extended immediate. -/
def execShri (vd va : VReg) (imm16 : Imm16) (s : State) : Result :=
  .next (s.writeV vd (shiftRight s.width (s.readV va) (zextImm imm16).toNat))

/-- What `SETBIT`, `CLRBIT` and `FLIPBIT` share: the bit function `f` at an index in [0, W), else the value
unchanged, copied to the destination (R168, R170 to R172). -/
def changeBit (f : Nat → Nat → Nat) (vd va : VReg) (sb : SReg) (s : State) : Result :=
  match s.bitPosition? sb with
  | some i => .next (s.writeV vd (f (s.readV va) i))
  | none => .next (s.writeV vd (s.readV va))

/-- `BIT sd, va, sb` (R169): the bit, 0 at an index outside [0, W). -/
def execBit (sd : SReg) (va : VReg) (sb : SReg) (s : State) : Result :=
  match s.bitPosition? sb with
  | some i => .next (s.writeS sd (boolScalar ((s.readV va).testBit i)))
  | none => .next (s.writeS sd 0)

/-- `SETBIT vd, va, sb` (R170): a OR 2^i. -/
def execSetbit (vd va : VReg) (sb : SReg) (s : State) : Result :=
  changeBit (fun a i => a ||| 2 ^ i) vd va sb s

/-- `CLRBIT vd, va, sb` (R171): a AND (2^W - 1 - 2^i). -/
def execClrbit (vd va : VReg) (sb : SReg) (s : State) : Result :=
  changeBit (fun a i => a &&& (2 ^ s.width - 1 - 2 ^ i)) vd va sb s

/-- `FLIPBIT vd, va, sb` (R172): a XOR 2^i. -/
def execFlipbit (vd va : VReg) (sb : SReg) (s : State) : Result :=
  changeBit (fun a i => a ^^^ 2 ^ i) vd va sb s

/-- `CLZ sd, va` (R173): W - bitlen(a); an all-zero value gives W. -/
def execClz (sd : SReg) (va : VReg) (s : State) : Result :=
  .next (s.writeS sd (BitVec.ofNat 64 (s.width - bitLen (s.readV va))))

/-- `CTZ sd, va` (R174): the index of the lowest 1 bit; an all-zero value gives W. -/
def execCtz (sd : SReg) (va : VReg) (s : State) : Result :=
  .next (s.writeS sd (BitVec.ofNat 64 (lowZeros s.width (s.readV va))))

/-- `POPC sd, va` (R175): the number of 1 bits. -/
def execPopc (sd : SReg) (va : VReg) (s : State) : Result :=
  .next (s.writeS sd (BitVec.ofNat 64 (popCount (s.readV va))))

end Sys2Proof.Machine
end

