-- ==== Sys2Proof/Machine/Render.lean ====
section
/-! DEFINITION. The string renderers (44_codec.md R230, R238, R239). Characters are ASCII codes (R230). -/

namespace Sys2Proof.Machine

/-- The code of a digit 0..15: '0'..'9' are 0x30..0x39, 'a'..'f' are 0x61..0x66 (44_codec.md R230). -/
def digitChar (d : Nat) : Byte := BitVec.ofNat 8 (if d < 10 then 0x30 + d else 0x57 + d)

/-- The base-10 digit characters of a natural, least significant first, none for 0: "repeatedly divide ... by 10"
(44_codec.md R238). `fuel` bounds the number of digits. -/
def decDigits : Nat → Nat → List Byte
  | 0, _ => []
  | fuel + 1, w => if w = 0 then [] else digitChar (w % 10) :: decDigits fuel (w / 10)

/-- `DecString(x, k)`: "0" for zero, else the digits most significant first (44_codec.md R238). -/
def decString (x : Nat) : List Byte :=
  if x = 0 then [0x30] else (decDigits (x.log2 + 1) x).reverse

/-- Word j of a natural: bits [64j+63 : 64j] (00_scope.md R11). -/
def wordAt (x j : Nat) : Nat := x / 2 ^ (64 * j) % 2 ^ 64

/-- `hex16(w)`: the 16 hexadecimal digits of a word, zero-padded (44_codec.md R239). -/
def hex16 (w : Nat) : List Byte := (List.range 16).map fun k => digitChar (w / 16 ^ (15 - k) % 16)

/-- `hex(w)`: the hexadecimal digits of a non-zero word without leading zeros (44_codec.md R239). -/
def hexWord (w : Nat) : List Byte := (hex16 w).dropWhile (· == 0x30)

/-- The words of an `n`-word value, most significant first. -/
def wordsDown (n x : Nat) : List Nat := ((List.range n).map (wordAt x)).reverse

/-- `HexString(x)` of an `n`-word value: "0x0" for zero, else "0x", the most significant non-zero word without leading
zeros, and every less significant word as 16 digits (44_codec.md R239). -/
def hexString (n x : Nat) : List Byte :=
  match (wordsDown n x).dropWhile (· == 0) with
  | [] => [0x30, 0x78, 0x30]
  | t :: rest => [0x30, 0x78] ++ hexWord t ++ rest.flatMap hex16

end Sys2Proof.Machine
end

