-- ==== Sys2Proof/Machine/Codec.lean ====
section
/-! DEFINITION. The codec commands (44_codec.md R230 to R243): construction, export, string rendering. -/

namespace Sys2Proof.Machine

/-- `FROMS vd, sa` (R231): word 0 is S[sa], the rest 0. -/
def execFroms (vd : VReg) (sa : SReg) (s : State) : Result := .next (s.writeV vd (s.natS sa))

/-- `FROMW vd, sa, sb` (R232): the first min(k, N) of k words of 8 bytes, least significant byte and word first; the
whole region of 8·k bytes must lie in `BUF`. -/
def execFromw (vd : VReg) (sa sb : SReg) (s : State) : Result :=
  readRegion (encode (.fromw vd sa sb)) s (s.natS sa) (8 * s.natS sb) 0 (8 * min (s.natS sb) s.nwords)
    fun bytes => s.writeV vd (natOfBytes bytes)

/-- `FROMLE vd, sa, sb` (R233): the first min(L, 8N) of L bytes, byte 0 least significant. -/
def execFromle (vd : VReg) (sa sb : SReg) (s : State) : Result :=
  readRegion (encode (.fromle vd sa sb)) s (s.natS sa) (s.natS sb) 0 (min (s.natS sb) s.valueBytes)
    fun bytes => s.writeV vd (natOfBytes bytes)

/-- How many leading bytes of an L-byte big-endian input are dropped when m are kept (R234, `BE_OVERLONG`). -/
def droppedBytes (p : BeOverlong) (L m : Nat) : Nat :=
  match p with
  | .keepLow => L - m
  | .keepHigh => 0

/-- `FROMBE` under either reading of an over-long input (R234, 92_eei_decisions.md D20): min(L, 8N) of L bytes, the
last one least significant. -/
def fromBigEndian (p : BeOverlong) (vd : VReg) (sa sb : SReg) (s : State) : Result :=
  let m := min (s.natS sb) s.valueBytes
  readRegion (encode (.frombe vd sa sb)) s (s.natS sa) (s.natS sb) (droppedBytes p (s.natS sb) m) m
    fun bytes => s.writeV vd (natOfBytes bytes.reverse)

/-- `FROMBE vd, sa, sb` (R234), with `BE_OVERLONG` of this hardware. -/
def execFrombe (vd : VReg) (sa sb : SReg) (s : State) : Result := fromBigEndian Config.beOverlong vd sa sb s

/-- `TOW va, sb` (R235): N words, "the bytes are identical to those `TOLE` writes". -/
def execTow (va : VReg) (sb : SReg) (s : State) : Result :=
  writeRegion (encode (.tow va sb)) s (s.natS sb) (bytesOfNat s.valueBytes (s.readV va)) id

/-- `TOLE va, sb` (R236): 8N bytes, byte i is a[8i+7:8i]. -/
def execTole (va : VReg) (sb : SReg) (s : State) : Result :=
  writeRegion (encode (.tole va sb)) s (s.natS sb) (bytesOfNat s.valueBytes (s.readV va)) id

/-- `TOBE va, sb` (R237): 8N bytes, most significant byte first. -/
def execTobe (va : VReg) (sb : SReg) (s : State) : Result :=
  writeRegion (encode (.tobe va sb)) s (s.natS sb) (bytesOfNat s.valueBytes (s.readV va)).reverse id

/-- What the string commands share: the string goes to `BUF` at `addr`, its length to S[sd] (R230). -/
def renderTo (c : Word32) (sd : SReg) (addr : Nat) (str : List Byte) (s : State) : Result :=
  writeRegion c s addr str fun t => t.writeS sd (BitVec.ofNat 64 str.length)

/-- `DEC sd, va, sb` (R240). -/
def execDec (sd : SReg) (va : VReg) (sb : SReg) (s : State) : Result :=
  renderTo (encode (.dec sd va sb)) sd (s.natS sb) (decString (s.readV va)) s

/-- `HEX sd, va, sb` (R241). -/
def execHex (sd : SReg) (va : VReg) (sb : SReg) (s : State) : Result :=
  renderTo (encode (.hex sd va sb)) sd (s.natS sb) (hexString s.nwords (s.readV va)) s

/-- `PDEC sd, pa, sb` (R242). -/
def execPdec (sd : SReg) (pa : PReg) (sb : SReg) (s : State) : Result :=
  renderTo (encode (.pdec sd pa sb)) sd (s.natS sb) (decString (s.readP pa)) s

end Sys2Proof.Machine
end

