-- ==== Sys2Proof/Machine/Compare.lean ====
section
/-! DEFINITION. The comparison commands (43_compare.md R200 to R211): unsigned, and none can raise an error. -/

namespace Sys2Proof.Machine

/-- What the boolean comparisons share: a test of `Cmp(V[va], V[vb])` written as a boolean (R200). -/
def compareTo (test : Int → Bool) (sd : SReg) (va vb : VReg) (s : State) : Result :=
  .next (s.writeS sd (boolScalar (test (cmpNat (s.readV va) (s.readV vb)))))

/-- `EQ sd, va, vb` (R201). -/
def execEq (sd : SReg) (va vb : VReg) (s : State) : Result :=
  .next (s.writeS sd (boolScalar (s.readV va == s.readV vb)))

/-- `NE sd, va, vb` (R202). -/
def execNe (sd : SReg) (va vb : VReg) (s : State) : Result :=
  .next (s.writeS sd (boolScalar (s.readV va != s.readV vb)))

/-- `LT sd, va, vb` (R203). -/
def execLt (sd : SReg) (va vb : VReg) (s : State) : Result := compareTo (· == -1) sd va vb s

/-- `LE sd, va, vb` (R204). -/
def execLe (sd : SReg) (va vb : VReg) (s : State) : Result := compareTo (fun c => decide (c ≤ 0)) sd va vb s

/-- `GT sd, va, vb` (R205). -/
def execGt (sd : SReg) (va vb : VReg) (s : State) : Result := compareTo (· == 1) sd va vb s

/-- `GE sd, va, vb` (R206). -/
def execGe (sd : SReg) (va vb : VReg) (s : State) : Result := compareTo (fun c => decide (0 ≤ c)) sd va vb s

/-- `CMP sd, va, vb` (R207): 0xFFFFFFFFFFFFFFFF, 0 or 1. -/
def execCmp (sd : SReg) (va vb : VReg) (s : State) : Result :=
  .next (s.writeS sd (u64 (cmpNat (s.readV va) (s.readV vb))))

/-- `ISODD sd, va` (R208): the low bit of word 0. -/
def execIsodd (sd : SReg) (va : VReg) (s : State) : Result :=
  .next (s.writeS sd (BitVec.ofNat 64 (s.readV va % 2)))

/-- `ISEVEN sd, va` (R209): 1 minus the low bit of word 0. -/
def execIseven (sd : SReg) (va : VReg) (s : State) : Result :=
  .next (s.writeS sd (BitVec.ofNat 64 (1 - s.readV va % 2)))

/-- `MIN vd, va, vb` (R210): the first operand when Cmp <= 0. -/
def execMin (vd va vb : VReg) (s : State) : Result :=
  .next (s.writeV vd (if cmpNat (s.readV va) (s.readV vb) ≤ 0 then s.readV va else s.readV vb))

/-- `MAX vd, va, vb` (R211): the first operand when Cmp >= 0. -/
def execMax (vd va vb : VReg) (s : State) : Result :=
  .next (s.writeV vd (if 0 ≤ cmpNat (s.readV va) (s.readV vb) then s.readV va else s.readV vb))

end Sys2Proof.Machine
end

