-- ==== Sys2Proof/Machine/Representation.lean ====
section
/-! DEFINITION. The representation commands (40_representation.md R100 to R104). -/

namespace Sys2Proof.Machine

/-- `NOP` (R100): no effect. -/
def execNop (s : State) : Result := .next s

/-- `MOV vd, va` (R101). -/
def execMov (vd va : VReg) (s : State) : Result := .next (s.writeV vd (s.readV va))

/-- `ZERO vd` (R102). -/
def execZero (vd : VReg) (s : State) : Result := .next (s.writeV vd 0)

/-- `ONE vd` (R103). -/
def execOne (vd : VReg) (s : State) : Result := .next (s.writeV vd 1)

/-- `MAXV vd` (R104): 2^W - 1. -/
def execMaxv (vd : VReg) (s : State) : Result := .next (s.writeV vd (2 ^ s.width - 1))

end Sys2Proof.Machine
end

