-- ==== Sys2Proof/Machine/Scalar.lean ====
section
/-! DEFINITION. The scalar support commands (45_scalar.md R270 to R274). -/

namespace Sys2Proof.Machine

/-- `SLI sd, imm16` (R270): zero-extended. -/
def execSli (sd : SReg) (imm16 : Imm16) (s : State) : Result := .next (s.writeS sd (zextImm imm16))

/-- `SSHI sd, imm16` (R271): S[sd][47:0] ++ imm16. -/
def execSshi (sd : SReg) (imm16 : Imm16) (s : State) : Result :=
  .next (s.writeS sd ((s.readS sd).extractLsb' 0 48 ++ imm16))

/-- `LDS sd, sa` (R272): the 8 bytes at address S[sa], little-endian. -/
def execLds (sd sa : SReg) (s : State) : Result :=
  readRegion (encode (.lds sd sa)) s (s.natS sa) 8 0 8
    fun bytes => s.writeS sd (BitVec.ofNat 64 (natOfBytes bytes))

/-- `STS sa, sb` (R273): S[sb] to the 8 bytes at address S[sa], little-endian. -/
def execSts (sa sb : SReg) (s : State) : Result :=
  writeRegion (encode (.sts sa sb)) s (s.natS sa) (bytesOfNat 8 (s.natS sb)) id

/-- `SMOV sd, sa` (R274). -/
def execSmov (sd sa : SReg) (s : State) : Result := .next (s.writeS sd (s.readS sa))

end Sys2Proof.Machine
end

