-- ==== Sys2Proof/Machine/Dispatch.lean ====
section
/-! DEFINITION. `Execute` of a decoded command (30_encoding.md R79): one arm per command, each one call of its
meaning. -/

namespace Sys2Proof.Machine

def exec (i : Instr) (s : State) : Host.Outcome State Fault Refusal :=
  match i with
  | .nop => Sys2Proof.Machine.execNop s
  | .mov vd va => Sys2Proof.Machine.execMov vd va s
  | .zero vd => Sys2Proof.Machine.execZero vd s
  | .one vd => Sys2Proof.Machine.execOne vd s
  | .maxv vd => Sys2Proof.Machine.execMaxv vd s
  | .add vd va vb => Sys2Proof.Machine.execAdd vd va vb s
  | .sub vd va vb => Sys2Proof.Machine.execSub vd va vb s
  | .mul pd va vb => Sys2Proof.Machine.execMul pd va vb s
  | .div vd va vb => Sys2Proof.Machine.execDiv vd va vb s
  | .mod vd va vb => Sys2Proof.Machine.execMod vd va vb s
  | .plo vd pa => Sys2Proof.Machine.execPlo vd pa s
  | .phi vd pa => Sys2Proof.Machine.execPhi vd pa s
  | .pisz sd pa => Sys2Proof.Machine.execPisz sd pa s
  | .and vd va vb => Sys2Proof.Machine.execAnd vd va vb s
  | .or vd va vb => Sys2Proof.Machine.execOr vd va vb s
  | .xor vd va vb => Sys2Proof.Machine.execXor vd va vb s
  | .not vd va => Sys2Proof.Machine.execNot vd va s
  | .shl vd va sb => Sys2Proof.Machine.execShl vd va sb s
  | .shr vd va sb => Sys2Proof.Machine.execShr vd va sb s
  | .shli vd va imm16 => Sys2Proof.Machine.execShli vd va imm16 s
  | .shri vd va imm16 => Sys2Proof.Machine.execShri vd va imm16 s
  | .bit sd va sb => Sys2Proof.Machine.execBit sd va sb s
  | .setbit vd va sb => Sys2Proof.Machine.execSetbit vd va sb s
  | .clrbit vd va sb => Sys2Proof.Machine.execClrbit vd va sb s
  | .flipbit vd va sb => Sys2Proof.Machine.execFlipbit vd va sb s
  | .clz sd va => Sys2Proof.Machine.execClz sd va s
  | .ctz sd va => Sys2Proof.Machine.execCtz sd va s
  | .popc sd va => Sys2Proof.Machine.execPopc sd va s
  | .eq sd va vb => Sys2Proof.Machine.execEq sd va vb s
  | .ne sd va vb => Sys2Proof.Machine.execNe sd va vb s
  | .lt sd va vb => Sys2Proof.Machine.execLt sd va vb s
  | .le sd va vb => Sys2Proof.Machine.execLe sd va vb s
  | .gt sd va vb => Sys2Proof.Machine.execGt sd va vb s
  | .ge sd va vb => Sys2Proof.Machine.execGe sd va vb s
  | .cmp sd va vb => Sys2Proof.Machine.execCmp sd va vb s
  | .isodd sd va => Sys2Proof.Machine.execIsodd sd va s
  | .iseven sd va => Sys2Proof.Machine.execIseven sd va s
  | .min vd va vb => Sys2Proof.Machine.execMin vd va vb s
  | .max vd va vb => Sys2Proof.Machine.execMax vd va vb s
  | .froms vd sa => Sys2Proof.Machine.execFroms vd sa s
  | .fromw vd sa sb => Sys2Proof.Machine.execFromw vd sa sb s
  | .fromle vd sa sb => Sys2Proof.Machine.execFromle vd sa sb s
  | .frombe vd sa sb => Sys2Proof.Machine.execFrombe vd sa sb s
  | .tow va sb => Sys2Proof.Machine.execTow va sb s
  | .tole va sb => Sys2Proof.Machine.execTole va sb s
  | .tobe va sb => Sys2Proof.Machine.execTobe va sb s
  | .dec sd va sb => Sys2Proof.Machine.execDec sd va sb s
  | .hex sd va sb => Sys2Proof.Machine.execHex sd va sb s
  | .pdec sd pa sb => Sys2Proof.Machine.execPdec sd pa sb s
  | .sli sd imm16 => Sys2Proof.Machine.execSli sd imm16 s
  | .sshi sd imm16 => Sys2Proof.Machine.execSshi sd imm16 s
  | .lds sd sa => Sys2Proof.Machine.execLds sd sa s
  | .sts sa sb => Sys2Proof.Machine.execSts sa sb s
  | .smov sd sa => Sys2Proof.Machine.execSmov sd sa s

end Sys2Proof.Machine
end

