-- ==== Sys2Proof/Machine/HostPort.lean ====
section
/-! DEFINITION. The host port: the host address map, what a host read returns and a host write does, the busy hold, and
the platform's reset (20_memory.md R40 to R45, R51; 10_state.md R28 to R36; 70_reset_and_hazards.md R340 to R342). -/

namespace Sys2Proof.Machine

/-- The number of bytes of an access (20_memory.md R41). -/
def AccessWidth.bytes : AccessWidth → Nat
  | .byte => 1
  | .half => 2
  | .word => 4

/-! The offsets of the control and status registers (20_memory.md R42). -/

def offId : Nat := 0x000
def offConfig : Nat := 0x004
def offBufsize : Nat := 0x008
def offCmd : Nat := 0x00C
def offStatus : Nat := 0x010
def offErrcause : Nat := 0x014
def offErrcmd : Nat := 0x018
def offCmdcount : Nat := 0x01C

/-- Where the `BUF` window begins: offset 0x1000 + a is `BUF` byte a (20_memory.md R42). -/
def windowBase : Nat := 0x1000

/-- The CONFIG word: NSREG, NPREG, NVREG, NWORDS from the top byte down (10_state.md R31). -/
def State.configWord (s : State) : Word32 :=
  BitVec.ofNat 8 Config.nsreg ++ BitVec.ofNat 8 Config.npreg ++ BitVec.ofNat 8 Config.nvreg ++ BitVec.ofNat 8 s.nwords

/-- What a 4-byte read of the control space returns; reserved offsets and CMD read 0 (10_state.md R28 to R36,
20_memory.md R42). -/
def State.controlWord (s : State) (offset : Nat) : Word32 :=
  if offset = offId then Config.idValue
  else if offset = offConfig then s.configWord
  else if offset = offBufsize then BitVec.ofNat 32 Config.bufSize
  else if offset = offStatus then s.statusWord
  else if offset = offErrcause then s.errcauseWord
  else if offset = offErrcmd then s.errcmd
  else if offset = offCmdcount then s.cmdcount
  else 0

/-- The accesses the host address map allows: naturally aligned, and 4 bytes below the window (20_memory.md R42, R43). -/
def accessAllowed (offset : HostOffset) (width : AccessWidth) : Bool :=
  offset.toNat % width.bytes == 0 && (width == .word || windowBase ≤ offset.toNat)

/-- The offset of an access. -/
def HostAccess.offset : HostAccess → HostOffset
  | .read o _ => o
  | .write o _ _ => o

/-- The width of an access. -/
def HostAccess.width : HostAccess → AccessWidth
  | .read _ w => w
  | .write _ w _ => w

/-- The accesses performed at once while BUSY = 1: reads of ID, CONFIG, BUFSIZE and STATUS, writes of STATUS. Every
other access is held, one that is no legal access of these registers too (20_memory.md R51). -/
def HostAccess.unheld (a : HostAccess) : Bool :=
  a.width == .word &&
    match a with
    | .read o _ => o.toNat == offId || o.toNat == offConfig || o.toNat == offBufsize || o.toNat == offStatus
    | .write o _ _ => o.toNat == offStatus

/-- The host's read returns a value: it joins the observation of the run (20_memory.md R54). -/
def State.answer (s : State) (v : Word32) : State := { s with returned := s.returned ++ [v] }

/-- A host read: of a control register, or of the window little-endian (20_memory.md R44, R45). -/
def State.hostRead (s : State) (offset : HostOffset) (width : AccessWidth) : Result :=
  if accessAllowed offset width then
    if offset.toNat < windowBase then .next (s.answer (s.controlWord offset.toNat))
    else
      match s.buf.bytesAt (offset.toNat - windowBase) width.bytes with
      | some bytes => .next (s.answer (BitVec.ofNat 32 (natOfBytes bytes)))
      | none => .fault .unwrittenByte
  else .refused .hostBusError

/-- A 4-byte host write of the control space: CMD issues a command, STATUS clears ERR and DROP where written 1, every
other write is ignored (20_memory.md R45). -/
def State.writeControl (s : State) (offset : Nat) (data : Word32) : State :=
  if offset = offCmd then s.issue data
  else if offset = offStatus then s.writeStatus data
  else s

/-- A host write: of a control register, or of the window little-endian (20_memory.md R44, R45). -/
def State.hostWrite (s : State) (offset : HostOffset) (width : AccessWidth) (data : Word32) : Result :=
  if accessAllowed offset width then
    if offset.toNat < windowBase then .next (s.writeControl offset.toNat data)
    else .next (s.storeBytes (offset.toNat - windowBase) (bytesOfNat width.bytes data.toNat))
  else .refused .hostBusError

/-- A host access is performed (20_memory.md R45). -/
def State.perform (s : State) : HostAccess → Result
  | .read offset width => s.hostRead offset width
  | .write offset width data => s.hostWrite offset width data

/-- The host's next access is performed; with none left the block is idle and keeps all state (20_memory.md R54,
R55; 60_exceptions.md R317). -/
def State.hostMoves (s : State) : Result :=
  match s.pending with
  | [] => .next s
  | a :: rest => State.perform { s with pending := rest } a

/-- Whether the host's next access is one that BUSY does not hold (20_memory.md R51). -/
def State.hostMayMove (s : State) : Bool :=
  match s.pending with
  | [] => false
  | a :: _ => a.unheld

/-- Which agent moves next: the engine past the end of the schedule (70_reset_and_hazards.md R352). -/
def State.turn (s : State) : Turn := s.schedule.head?.getD .engine

/-- The turn is taken. -/
def State.takeTurn (s : State) : State := { s with schedule := s.schedule.tail }

/-- The run has ended: the host has performed its last access and BUSY = 0 (20_memory.md R54). -/
def State.runEnded (s : State) : Bool := s.pending.isEmpty && !s.isBusy

/-! ## The platform's reset (70_reset_and_hazards.md R340 to R342) -/

/-- V and P after the platform's `k`-th reset: unspecified, so free values (R341, assumption log 3). -/
def Files.afterReset (k : Nat) : Files → Files
  | .n8 _ => .n8
    { v := Vector.ofFn fun i => BitVec.ofNat 512 (Config.resetV k (BitVec.ofFin i))
      p := Vector.ofFn fun i => BitVec.ofNat 1024 (Config.resetP k (BitVec.ofFin i)) }
  | .n16 _ => .n16
    { v := Vector.ofFn fun i => BitVec.ofNat 1024 (Config.resetV k (BitVec.ofFin i))
      p := Vector.ofFn fun i => BitVec.ofNat 2048 (Config.resetP k (BitVec.ofFin i)) }

/-- Whether the host's next access is held: the engine is BUSY and the access is not one R51 performs at once
(20_memory.md R51). -/
def State.holdsAccess (s : State) : Bool := s.isBusy && !s.pending.isEmpty && !s.hostMayMove

/-- What the platform's reset leaves of an access that is held (70_reset_and_hazards.md R342,
93_implementation_defined.md I5): not issued yet, aborted, or completed, a read with any value. An access that R43
makes a bus error returns no data: it is not completed here, and is refused when its turn comes. -/
def State.settleHeld (s : State) (fate : HeldFate) : State :=
  match fate, s.pending with
  | .aborted, _ :: rest => { s with pending := rest }
  | .completed v, .read o w :: rest => if accessAllowed o w then State.answer { s with pending := rest } v else s
  | .completed _, .write o w _ :: rest => if accessAllowed o w then { s with pending := rest } else s
  | _, _ => s

/-- The platform asserts reset: the control registers get their reset values and the engine goes IDLE, abandoning a
command in execution (R340, R342); V, P and S hold free values and every `BUF` byte is unwritten (R341). The fate is
that of a held access alone. An access that is not held (the engine IDLE, or one R51 performs at once) stays with the
host and is performed after the reset: R342 and I5 speak of held accesses only (assumption log 3, DESIGN CHOICE). -/
def State.platformReset (s : State) (fate : HeldFate) : State :=
  let t := if s.holdsAccess then s.settleHeld fate else s
  { t with
    files := s.files.afterReset s.resets
    scalars := Vector.ofFn fun i => Config.resetS s.resets (BitVec.ofFin i)
    buf := []
    phase := .idle
    err := false
    drop := false
    errcause := none
    errcmd := 0
    cmdcount := 0
    resets := s.resets + 1 }

/-! ## The loaded command -/

/-- The command word a step is to fetch stands as the accepted command, which the engine's turn then executes
(assumption log 6): the acceptance of 20_memory.md R52, which takes ERR = 0. -/
def State.loadCommand (s : State) (c : Word32) : State :=
  { State.accept { s with err := false } c with schedule := .engine :: s.schedule }

end Sys2Proof.Machine
end

