-- ==== Sys2Proof/Machine/Step.lean ====
section
/-! DEFINITION. One step: the engine executes the accepted command to completion, the host's next access is
performed, or the platform asserts reset (20_memory.md R50 to R53; 70_reset_and_hazards.md R340, R352). -/

namespace Sys2Proof.Machine

/-- `Execute(c)`: an illegal word raises IllegalCommand, decided from the word alone (30_encoding.md R78, R79;
60_exceptions.md R302). -/
def executeWord (c : Word32) (s : State) : Result :=
  match decode c with
  | .ok i => exec i s
  | .error _ => raise .illegalCommand c s

/-- The accepted command executes and completes, as one indivisible step (20_memory.md R50, R52, R53). -/
def engineMoves (c : Word32) (s : State) : Result := completeResult (executeWord c s)

/-- One step of the machine. While BUSY, a host turn performs the host's next access only if R51 does not hold it. -/
def step (s : State) : Host.Outcome State Fault Refusal :=
  match s.turn, s.phase with
  | .reset fate, _ => .next (s.takeTurn.platformReset fate)
  | _, .idle => s.takeTurn.hostMoves
  | .engine, .busy c => engineMoves c s.takeTurn
  | .host, .busy c => if s.hostMayMove then s.takeTurn.hostMoves else engineMoves c s.takeTurn

/-- The state with the command word `w` as the accepted command, so that the next step executes it (assumption
log 6). A command word is 32 bits (30_encoding.md R70); the bits above `nbits` are 0. -/
def State.withFetchWord (s : State) (nbits w : Nat) : State :=
  s.loadCommand (BitVec.ofNat 32 (w % 2 ^ nbits))

end Sys2Proof.Machine
end

