-- ==== Sys2Proof/Machine/Assembler.lean ====
section
/-! DEFINITION. The assembler syntax and the pseudo-instructions (30_encoding.md R83). Each pseudo-instruction is another
spelling of the commands it expands to: no command of the block is added. -/

namespace Sys2Proof.Machine

/-- The pseudo-instructions (30_encoding.md R83). -/
inductive Pseudo where
  | iadd (vd vb : VReg)
  | isub (vd vb : VReg)
  | iand (vd vb : VReg)
  | ior (vd vb : VReg)
  | ixor (vd vb : VReg)
  | inot (vd : VReg)
  | ishl (vd : VReg) (sb : SReg)
  | ishr (vd : VReg) (sb : SReg)
  | ishli (vd : VReg) (imm : Imm16)
  | ishri (vd : VReg) (imm : Imm16)
  | clone (vd va : VReg)
  | trunc (vd : VReg) (pa : PReg)
  | li (sd : SReg) (x : Int)
  deriving DecidableEq, Repr

/-- `LI` takes an integer x with -2^63 <= x < 2^64 (30_encoding.md R83). -/
def Pseudo.wf : Pseudo → Bool
  | .li _ x => decide (-2 ^ 63 ≤ x) && decide (x < 2 ^ 64)
  | _ => true

/-- The 16 bits u[16j+15:16j]. -/
def liChunk (u j : Nat) : Imm16 := BitVec.ofNat 16 (u / 2 ^ (16 * j))

/-- k = max(1, ceil(bitlen(u) / 16)), the number of commands `LI` expands to (30_encoding.md R83). -/
def liCount (u : Nat) : Nat := max 1 ((bitLen u + 15) / 16)

/-- The expansion of `LI sd, x` with u = u64(x): `SLI` of the top 16 bits, then `SSHI` down to the low ones
(30_encoding.md R83). -/
def liExpand (sd : SReg) (u : Nat) : List Instr :=
  .sli sd (liChunk u (liCount u - 1)) :: (List.range (liCount u - 1)).reverse.map fun j => .sshi sd (liChunk u j)

/-- The commands a pseudo-instruction expands to (30_encoding.md R83). -/
def Pseudo.expand : Pseudo → List Instr
  | .iadd vd vb => [.add vd vd vb]
  | .isub vd vb => [.sub vd vd vb]
  | .iand vd vb => [.and vd vd vb]
  | .ior vd vb => [.or vd vd vb]
  | .ixor vd vb => [.xor vd vd vb]
  | .inot vd => [.not vd vd]
  | .ishl vd sb => [.shl vd vd sb]
  | .ishr vd sb => [.shr vd vd sb]
  | .ishli vd imm => [.shli vd vd imm]
  | .ishri vd imm => [.shri vd vd imm]
  | .clone vd va => [.mov vd va]
  | .trunc vd pa => [.plo vd pa]
  | .li sd x => liExpand sd (u64 x).toNat

/-! ## Text -/

/-- The mnemonics as written, in capitals (30_encoding.md R76, R83). -/
def mnemonicName : Mnemonic → List Char
  | .nop => ['N', 'O', 'P']
  | .mov => ['M', 'O', 'V']
  | .zero => ['Z', 'E', 'R', 'O']
  | .one => ['O', 'N', 'E']
  | .maxv => ['M', 'A', 'X', 'V']
  | .add => ['A', 'D', 'D']
  | .sub => ['S', 'U', 'B']
  | .mul => ['M', 'U', 'L']
  | .div => ['D', 'I', 'V']
  | .mod => ['M', 'O', 'D']
  | .plo => ['P', 'L', 'O']
  | .phi => ['P', 'H', 'I']
  | .pisz => ['P', 'I', 'S', 'Z']
  | .and => ['A', 'N', 'D']
  | .or => ['O', 'R']
  | .xor => ['X', 'O', 'R']
  | .not => ['N', 'O', 'T']
  | .shl => ['S', 'H', 'L']
  | .shr => ['S', 'H', 'R']
  | .shli => ['S', 'H', 'L', 'I']
  | .shri => ['S', 'H', 'R', 'I']
  | .bit => ['B', 'I', 'T']
  | .setbit => ['S', 'E', 'T', 'B', 'I', 'T']
  | .clrbit => ['C', 'L', 'R', 'B', 'I', 'T']
  | .flipbit => ['F', 'L', 'I', 'P', 'B', 'I', 'T']
  | .clz => ['C', 'L', 'Z']
  | .ctz => ['C', 'T', 'Z']
  | .popc => ['P', 'O', 'P', 'C']
  | .eq => ['E', 'Q']
  | .ne => ['N', 'E']
  | .lt => ['L', 'T']
  | .le => ['L', 'E']
  | .gt => ['G', 'T']
  | .ge => ['G', 'E']
  | .cmp => ['C', 'M', 'P']
  | .isodd => ['I', 'S', 'O', 'D', 'D']
  | .iseven => ['I', 'S', 'E', 'V', 'E', 'N']
  | .min => ['M', 'I', 'N']
  | .max => ['M', 'A', 'X']
  | .froms => ['F', 'R', 'O', 'M', 'S']
  | .fromw => ['F', 'R', 'O', 'M', 'W']
  | .fromle => ['F', 'R', 'O', 'M', 'L', 'E']
  | .frombe => ['F', 'R', 'O', 'M', 'B', 'E']
  | .tow => ['T', 'O', 'W']
  | .tole => ['T', 'O', 'L', 'E']
  | .tobe => ['T', 'O', 'B', 'E']
  | .dec => ['D', 'E', 'C']
  | .hex => ['H', 'E', 'X']
  | .pdec => ['P', 'D', 'E', 'C']
  | .sli => ['S', 'L', 'I']
  | .sshi => ['S', 'S', 'H', 'I']
  | .lds => ['L', 'D', 'S']
  | .sts => ['S', 'T', 'S']
  | .smov => ['S', 'M', 'O', 'V']

/-- Every mnemonic, in the order of the opcode map. -/
def allMnemonics : List Mnemonic :=
  ([.nop, .mov, .zero, .one, .maxv, .add, .sub, .mul, .div] : List Mnemonic) ++
  ([.mod, .plo, .phi, .pisz, .and, .or, .xor, .not, .shl] : List Mnemonic) ++
  ([.shr, .shli, .shri, .bit, .setbit, .clrbit, .flipbit, .clz, .ctz] : List Mnemonic) ++
  ([.popc, .eq, .ne, .lt, .le, .gt, .ge, .cmp, .isodd] : List Mnemonic) ++
  ([.iseven, .min, .max, .froms, .fromw, .fromle, .frombe, .tow, .tole] : List Mnemonic) ++
  ([.tobe, .dec, .hex, .pdec, .sli, .sshi, .lds, .sts, .smov] : List Mnemonic)

/-- The command or pseudo-instruction named by capitals, with its operands as read. -/
def pseudoNamed (name : List Char) (ops : List Operand) : Option Pseudo :=
  match ops with
  | [.v d, .v b] =>
    if name = ['I', 'A', 'D', 'D'] then some (.iadd (BitVec.ofNat 4 d) (BitVec.ofNat 4 b))
    else if name = ['I', 'S', 'U', 'B'] then some (.isub (BitVec.ofNat 4 d) (BitVec.ofNat 4 b))
    else if name = ['I', 'A', 'N', 'D'] then some (.iand (BitVec.ofNat 4 d) (BitVec.ofNat 4 b))
    else if name = ['I', 'O', 'R'] then some (.ior (BitVec.ofNat 4 d) (BitVec.ofNat 4 b))
    else if name = ['I', 'X', 'O', 'R'] then some (.ixor (BitVec.ofNat 4 d) (BitVec.ofNat 4 b))
    else if name = ['C', 'L', 'O', 'N', 'E'] then some (.clone (BitVec.ofNat 4 d) (BitVec.ofNat 4 b))
    else none
  | [.v d] => if name = ['I', 'N', 'O', 'T'] then some (.inot (BitVec.ofNat 4 d)) else none
  | [.v d, .s b] =>
    if name = ['I', 'S', 'H', 'L'] then some (.ishl (BitVec.ofNat 4 d) (BitVec.ofNat 4 b))
    else if name = ['I', 'S', 'H', 'R'] then some (.ishr (BitVec.ofNat 4 d) (BitVec.ofNat 4 b))
    else none
  | [.v d, .imm x] =>
    if name = ['I', 'S', 'H', 'L', 'I'] then some (.ishli (BitVec.ofNat 4 d) (BitVec.ofInt 16 x))
    else if name = ['I', 'S', 'H', 'R', 'I'] then some (.ishri (BitVec.ofNat 4 d) (BitVec.ofInt 16 x))
    else none
  | [.v d, .p a] => if name = ['T', 'R', 'U', 'N', 'C'] then some (.trunc (BitVec.ofNat 4 d) (BitVec.ofNat 2 a)) else none
  | [.s d, .imm x] => if name = ['L', 'I'] then some (.li (BitVec.ofNat 4 d) x) else none
  | _ => none

/-- The commands of a pseudo-instruction line, none where it is an assembly error: register indices and 16-bit
immediates in range, and `LI`'s integer in its own range (30_encoding.md R83). -/
def assemblePseudo (name : List Char) (ops : List Operand) : Option (List Instr) :=
  match pseudoNamed name ops with
  | some (.li sd x) => if (Pseudo.li sd x).wf && (ops.take 1).all Operand.inRange then some (Pseudo.li sd x).expand else none
  | some p => if ops.all Operand.inRange then some p.expand else none
  | none => none

/-- A blank or a tabulation. -/
def isBlank (c : Char) : Bool := c == ' ' || c == '\t'

/-- Drops the blanks at both ends. -/
def trim (t : List Char) : List Char := ((t.dropWhile isBlank).reverse.dropWhile isBlank).reverse

/-- Splits at commas. -/
def splitComma : List Char → List (List Char)
  | [] => [[]]
  | c :: t =>
    match splitComma t with
    | [] => [[c]]
    | w :: ws => if c == ',' then [] :: w :: ws else (c :: w) :: ws

/-- The capital of a letter: mnemonics are "matched without regard to case" (30_encoding.md R83). -/
def capital (c : Char) : Char := if 97 ≤ c.toNat ∧ c.toNat ≤ 122 then Char.ofNat (c.toNat - 32) else c

/-- The value of a digit character in base 16 (either case), or none. -/
def digitValue (c : Char) : Option Nat :=
  if 48 ≤ c.toNat ∧ c.toNat ≤ 57 then some (c.toNat - 48)
  else if 97 ≤ c.toNat ∧ c.toNat ≤ 102 then some (c.toNat - 87)
  else if 65 ≤ c.toNat ∧ c.toNat ≤ 70 then some (c.toNat - 55)
  else none

/-- The number a digit string continues `acc` to, in the given base. -/
def digitsFrom (base : Nat) : Nat → List Char → Option Nat
  | acc, [] => some acc
  | acc, c :: t =>
    match digitValue c with
    | some d => if d < base then digitsFrom base (acc * base + d) t else none
    | none => none

/-- The number of a non-empty digit string. -/
def digits (base : Nat) (t : List Char) : Option Nat := if t = [] then none else digitsFrom base 0 t

/-- "Immediates are decimal (`513`) or hexadecimal (`0x201`)"; a leading minus is for `LI` (30_encoding.md R83). -/
def readNumber : List Char → Option Int
  | '-' :: t => (digits 10 t).map fun n => -(n : Int)
  | '0' :: 'x' :: t => (digits 16 t).map fun n => (n : Int)
  | t => (digits 10 t).map fun n => (n : Int)

/-- A register name or an immediate (30_encoding.md R83). -/
def readOperand : List Char → Option Operand
  | 'v' :: t => (digits 10 t).map .v
  | 'p' :: t => (digits 10 t).map .p
  | 's' :: t => (digits 10 t).map .s
  | t => (readNumber t).map .imm

/-- Every operand read, or none. -/
def readOperands : List (List Char) → Option (List Operand)
  | [] => some []
  | t :: ts =>
    match readOperand (trim t), readOperands ts with
    | some o, some os => some (o :: os)
    | _, _ => none

/-- Assembles one line of text: a comment from ';' on, the mnemonic, its operands separated by commas
(30_encoding.md R83). An empty line gives no command; none is an assembly error. -/
def assembleText (text : List Char) : Option (List Instr) :=
  let body := trim (text.takeWhile (· != ';'))
  let name := (body.takeWhile fun c => !isBlank c).map capital
  let rest := trim (body.dropWhile fun c => !isBlank c)
  if body = [] then some []
  else
    match readOperands (if rest = [] then [] else splitComma rest) with
    | none => none
    | some ops =>
      match allMnemonics.find? fun m => mnemonicName m == name with
      | some m => (assemble ⟨m, ops⟩).map fun i => [i]
      | none => assemblePseudo name ops

end Sys2Proof.Machine
end

