-- ==== Sys2Proof/Machine/Reference.lean ====
section
/-! DEFINITION. The reference algorithms the spec gives word by word: carry and borrow propagation, schoolbook
multiplication, binary long division, DivSmall, the comparison scan, the two-stage shifts, the counters' scans and
the decimal renderer over DivSmall. The meanings state the values these compute (41_arithmetic.md R131); that they
do compute them is stated in the obligations. Words are naturals below 2^64, word 0 first (00_scope.md R11). -/

namespace Sys2Proof.Machine.Reference

/-- The `n` words of a natural, word 0 first (00_scope.md R11). -/
def wordsOf : Nat → Nat → List Nat
  | 0, _ => []
  | n + 1, x => x % 2 ^ 64 :: wordsOf n (x / 2 ^ 64)

/-- The value of a word sequence: the sum of w_j · 2^(64j) (00_scope.md R11). -/
def valueOf : List Nat → Nat
  | [] => 0
  | w :: ws => w + 2 ^ 64 * valueOf ws

/-- The addition loop with carry `c`; the carry out of the last word is discarded (41_arithmetic.md R120). -/
def addCarry : List Nat → List Nat → Nat → List Nat
  | a :: as, b :: bs, c => (a + b + c) % 2 ^ 64 :: addCarry as bs ((a + b + c) / 2 ^ 64)
  | _, _, _ => []

/-- The subtraction loop with borrow `brw`; the borrow out of the last word is discarded (41_arithmetic.md R121). -/
def subBorrow : List Nat → List Nat → Int → List Nat
  | a :: as, b :: bs, brw =>
    ((a - b - brw : Int) % 2 ^ 64).toNat :: subBorrow as bs (if (a - b - brw : Int) < 0 then 1 else 0)
  | _, _, _ => []

/-- The `while` loop of `AddAt` from its word up: adds `c` and carries upward; a carry left at the end is discarded
(41_arithmetic.md R122). -/
def carryUp : List Nat → Nat → List Nat
  | [], _ => []
  | w :: ws, c => if c = 0 then w :: ws else (w + c) % 2 ^ 64 :: carryUp ws ((w + c) / 2 ^ 64)

/-- `AddAt(r, k, x)` (41_arithmetic.md R122). -/
def addAt (r : List Nat) (k x : Nat) : List Nat := r.take k ++ carryUp (r.drop k) x

/-- One word pair of the schoolbook multiplication, skipped when either word is zero (41_arithmetic.md R122). -/
def mulPair (a b : List Nat) (i j : Nat) (r : List Nat) : List Nat :=
  if a.getD i 0 = 0 ∨ b.getD j 0 = 0 then r
  else
    let t := a.getD i 0 * b.getD j 0
    addAt (addAt r (i + j) (t % 2 ^ 64)) (i + j + 1) (t / 2 ^ 64)

/-- The schoolbook multiplication of two n-word values into 2n words (41_arithmetic.md R122). -/
def mulWords (n : Nat) (a b : List Nat) : List Nat :=
  (List.range n).foldl (fun r i => (List.range n).foldl (fun r j => mulPair a b i j r) r) (List.replicate (2 * n) 0)

/-- The loop of the long division for bits i-1 down to 0, with quotient q and remainder r so far
(41_arithmetic.md R123). -/
def longDivLoop (a b : Nat) : Nat → Nat → Nat → Nat × Nat
  | 0, q, r => (q, r)
  | i + 1, q, r =>
    let r' := 2 * r + a / 2 ^ i % 2
    if b ≤ r' then longDivLoop a b i (q + 2 ^ i) (r' - b) else longDivLoop a b i q r'

/-- `LongDiv(a, b)` over `w` bits, with its two fast paths (41_arithmetic.md R123). -/
def longDiv (w a b : Nat) : Nat × Nat :=
  if a < b then (0, a) else if a = b then (1, 0) else longDivLoop a b w 0 0

/-- `DivSmall(w, k, d)` on a word sequence, word 0 first: each word as two half-words, the more significant words
before it, the running remainder carried between them (41_arithmetic.md R126). -/
def divSmall (d : Nat) : List Nat → List Nat × Nat
  | [] => ([], 0)
  | w :: ws =>
    let (q, rem) := divSmall d ws
    let t := rem * 2 ^ 32 + w / 2 ^ 32
    let t' := t % d * 2 ^ 32 + w % 2 ^ 32
    ((t / d * 2 ^ 32 + t' / d) :: q, t' % d)

/-- The digit loop of `DecString` over DivSmall by 10, least significant digit first (44_codec.md R238). -/
def decLoop : Nat → List Nat → List Byte
  | 0, _ => []
  | fuel + 1, ws =>
    if valueOf ws = 0 then []
    else BitVec.ofNat 8 (0x30 + (divSmall 10 ws).2) :: decLoop fuel (divSmall 10 ws).1

/-- `DecString(x, k)` of a k-word natural (44_codec.md R238): 64·k digits are more than enough. -/
def decString (x k : Nat) : List Byte :=
  if x = 0 then [0x30] else (decLoop (64 * k) (wordsOf k x)).reverse

/-- The comparison scan: the most significant differing word decides (43_compare.md R200). -/
def cmpScan : List Nat → List Nat → Int
  | a :: as, b :: bs =>
    match cmpScan as bs with
    | 0 => if a = b then 0 else if a < b then -1 else 1
    | c => c
  | _, _ => 0

/-- The shift left as a whole-word shift and a bit shift with carry between adjacent words (42_bit.md R164). -/
def shlWords (n : Nat) (a : List Nat) (count : Nat) : List Nat :=
  if 64 * n ≤ count then List.replicate n 0
  else
    let ws := count / 64
    let bs := count % 64
    let t := (List.range n).map fun j => if ws ≤ j then a.getD (j - ws) 0 else 0
    (List.range n).map fun j =>
      t.getD j 0 * 2 ^ bs % 2 ^ 64 + if 1 ≤ j ∧ 0 < bs then t.getD (j - 1) 0 / 2 ^ (64 - bs) else 0

/-- The logical shift right in the same two stages (42_bit.md R165). -/
def shrWords (n : Nat) (a : List Nat) (count : Nat) : List Nat :=
  if 64 * n ≤ count then List.replicate n 0
  else
    let ws := count / 64
    let bs := count % 64
    let t := (List.range n).map fun j => if j + ws ≤ n - 1 then a.getD (j + ws) 0 else 0
    (List.range n).map fun j =>
      t.getD j 0 / 2 ^ bs + if j + 1 ≤ n - 1 ∧ 0 < bs then t.getD (j + 1) 0 * 2 ^ (64 - bs) % 2 ^ 64 else 0

/-- The leading-zero scan over words given most significant first (42_bit.md R173). -/
def clzScan : List Nat → Nat
  | [] => 0
  | w :: ws => if w = 0 then 64 + clzScan ws else 64 - bitLen w

/-- The trailing-zero scan over words given least significant first (42_bit.md R174). -/
def ctzScan : List Nat → Nat
  | [] => 0
  | w :: ws => if w = 0 then 64 + ctzScan ws else lowZeros 64 w

/-- The sum of the words' population counts (42_bit.md R175). -/
def popSum : List Nat → Nat
  | [] => 0
  | w :: ws => popCount w + popSum ws

end Sys2Proof.Machine.Reference
end

