-- ==== Sys2Proof/Safety.lean ====
section
/-! DEFINITION. The terms claims use: what a command reads and writes (10_state.md R21, R22, R24), when it completes
and which error it can meet (60_exceptions.md R300, R301), what a frame is, and the invariant of the machine. -/

namespace Sys2Proof


/-- The value register a command writes (10_state.md R21). -/
def Instr.destV : Instr → Option VReg
  | .nop => none
  | .mov vd _ => some vd
  | .zero vd => some vd
  | .one vd => some vd
  | .maxv vd => some vd
  | .add vd _ _ => some vd
  | .sub vd _ _ => some vd
  | .mul _ _ _ => none
  | .div vd _ _ => some vd
  | .mod vd _ _ => some vd
  | .plo vd _ => some vd
  | .phi vd _ => some vd
  | .pisz _ _ => none
  | .and vd _ _ => some vd
  | .or vd _ _ => some vd
  | .xor vd _ _ => some vd
  | .not vd _ => some vd
  | .shl vd _ _ => some vd
  | .shr vd _ _ => some vd
  | .shli vd _ _ => some vd
  | .shri vd _ _ => some vd
  | .bit _ _ _ => none
  | .setbit vd _ _ => some vd
  | .clrbit vd _ _ => some vd
  | .flipbit vd _ _ => some vd
  | .clz _ _ => none
  | .ctz _ _ => none
  | .popc _ _ => none
  | .eq _ _ _ => none
  | .ne _ _ _ => none
  | .lt _ _ _ => none
  | .le _ _ _ => none
  | .gt _ _ _ => none
  | .ge _ _ _ => none
  | .cmp _ _ _ => none
  | .isodd _ _ => none
  | .iseven _ _ => none
  | .min vd _ _ => some vd
  | .max vd _ _ => some vd
  | .froms vd _ => some vd
  | .fromw vd _ _ => some vd
  | .fromle vd _ _ => some vd
  | .frombe vd _ _ => some vd
  | .tow _ _ => none
  | .tole _ _ => none
  | .tobe _ _ => none
  | .dec _ _ _ => none
  | .hex _ _ _ => none
  | .pdec _ _ _ => none
  | .sli _ _ => none
  | .sshi _ _ => none
  | .lds _ _ => none
  | .sts _ _ => none
  | .smov _ _ => none

/-- The wide register a command writes (10_state.md R22). -/
def Instr.destP : Instr → Option PReg
  | .nop => none
  | .mov _ _ => none
  | .zero _ => none
  | .one _ => none
  | .maxv _ => none
  | .add _ _ _ => none
  | .sub _ _ _ => none
  | .mul pd _ _ => some pd
  | .div _ _ _ => none
  | .mod _ _ _ => none
  | .plo _ _ => none
  | .phi _ _ => none
  | .pisz _ _ => none
  | .and _ _ _ => none
  | .or _ _ _ => none
  | .xor _ _ _ => none
  | .not _ _ => none
  | .shl _ _ _ => none
  | .shr _ _ _ => none
  | .shli _ _ _ => none
  | .shri _ _ _ => none
  | .bit _ _ _ => none
  | .setbit _ _ _ => none
  | .clrbit _ _ _ => none
  | .flipbit _ _ _ => none
  | .clz _ _ => none
  | .ctz _ _ => none
  | .popc _ _ => none
  | .eq _ _ _ => none
  | .ne _ _ _ => none
  | .lt _ _ _ => none
  | .le _ _ _ => none
  | .gt _ _ _ => none
  | .ge _ _ _ => none
  | .cmp _ _ _ => none
  | .isodd _ _ => none
  | .iseven _ _ => none
  | .min _ _ _ => none
  | .max _ _ _ => none
  | .froms _ _ => none
  | .fromw _ _ _ => none
  | .fromle _ _ _ => none
  | .frombe _ _ _ => none
  | .tow _ _ => none
  | .tole _ _ => none
  | .tobe _ _ => none
  | .dec _ _ _ => none
  | .hex _ _ _ => none
  | .pdec _ _ _ => none
  | .sli _ _ => none
  | .sshi _ _ => none
  | .lds _ _ => none
  | .sts _ _ => none
  | .smov _ _ => none

/-- The scalar register a command writes (10_state.md R24). -/
def Instr.destS : Instr → Option SReg
  | .nop => none
  | .mov _ _ => none
  | .zero _ => none
  | .one _ => none
  | .maxv _ => none
  | .add _ _ _ => none
  | .sub _ _ _ => none
  | .mul _ _ _ => none
  | .div _ _ _ => none
  | .mod _ _ _ => none
  | .plo _ _ => none
  | .phi _ _ => none
  | .pisz sd _ => some sd
  | .and _ _ _ => none
  | .or _ _ _ => none
  | .xor _ _ _ => none
  | .not _ _ => none
  | .shl _ _ _ => none
  | .shr _ _ _ => none
  | .shli _ _ _ => none
  | .shri _ _ _ => none
  | .bit sd _ _ => some sd
  | .setbit _ _ _ => none
  | .clrbit _ _ _ => none
  | .flipbit _ _ _ => none
  | .clz sd _ => some sd
  | .ctz sd _ => some sd
  | .popc sd _ => some sd
  | .eq sd _ _ => some sd
  | .ne sd _ _ => some sd
  | .lt sd _ _ => some sd
  | .le sd _ _ => some sd
  | .gt sd _ _ => some sd
  | .ge sd _ _ => some sd
  | .cmp sd _ _ => some sd
  | .isodd sd _ => some sd
  | .iseven sd _ => some sd
  | .min _ _ _ => none
  | .max _ _ _ => none
  | .froms _ _ => none
  | .fromw _ _ _ => none
  | .fromle _ _ _ => none
  | .frombe _ _ _ => none
  | .tow _ _ => none
  | .tole _ _ => none
  | .tobe _ _ => none
  | .dec sd _ _ => some sd
  | .hex sd _ _ => some sd
  | .pdec sd _ _ => some sd
  | .sli sd _ => some sd
  | .sshi sd _ => some sd
  | .lds sd _ => some sd
  | .sts _ _ => none
  | .smov sd _ => some sd

/-- The value registers a command reads (10_state.md R21). -/
def Instr.srcV : Instr → List VReg
  | .nop => []
  | .mov _ va => [va]
  | .zero _ => []
  | .one _ => []
  | .maxv _ => []
  | .add _ va vb => [va, vb]
  | .sub _ va vb => [va, vb]
  | .mul _ va vb => [va, vb]
  | .div _ va vb => [va, vb]
  | .mod _ va vb => [va, vb]
  | .plo _ _ => []
  | .phi _ _ => []
  | .pisz _ _ => []
  | .and _ va vb => [va, vb]
  | .or _ va vb => [va, vb]
  | .xor _ va vb => [va, vb]
  | .not _ va => [va]
  | .shl _ va _ => [va]
  | .shr _ va _ => [va]
  | .shli _ va _ => [va]
  | .shri _ va _ => [va]
  | .bit _ va _ => [va]
  | .setbit _ va _ => [va]
  | .clrbit _ va _ => [va]
  | .flipbit _ va _ => [va]
  | .clz _ va => [va]
  | .ctz _ va => [va]
  | .popc _ va => [va]
  | .eq _ va vb => [va, vb]
  | .ne _ va vb => [va, vb]
  | .lt _ va vb => [va, vb]
  | .le _ va vb => [va, vb]
  | .gt _ va vb => [va, vb]
  | .ge _ va vb => [va, vb]
  | .cmp _ va vb => [va, vb]
  | .isodd _ va => [va]
  | .iseven _ va => [va]
  | .min _ va vb => [va, vb]
  | .max _ va vb => [va, vb]
  | .froms _ _ => []
  | .fromw _ _ _ => []
  | .fromle _ _ _ => []
  | .frombe _ _ _ => []
  | .tow va _ => [va]
  | .tole va _ => [va]
  | .tobe va _ => [va]
  | .dec _ va _ => [va]
  | .hex _ va _ => [va]
  | .pdec _ _ _ => []
  | .sli _ _ => []
  | .sshi _ _ => []
  | .lds _ _ => []
  | .sts _ _ => []
  | .smov _ _ => []

/-- The wide registers a command reads (10_state.md R22). -/
def Instr.srcP : Instr → List PReg
  | .nop => []
  | .mov _ _ => []
  | .zero _ => []
  | .one _ => []
  | .maxv _ => []
  | .add _ _ _ => []
  | .sub _ _ _ => []
  | .mul _ _ _ => []
  | .div _ _ _ => []
  | .mod _ _ _ => []
  | .plo _ pa => [pa]
  | .phi _ pa => [pa]
  | .pisz _ pa => [pa]
  | .and _ _ _ => []
  | .or _ _ _ => []
  | .xor _ _ _ => []
  | .not _ _ => []
  | .shl _ _ _ => []
  | .shr _ _ _ => []
  | .shli _ _ _ => []
  | .shri _ _ _ => []
  | .bit _ _ _ => []
  | .setbit _ _ _ => []
  | .clrbit _ _ _ => []
  | .flipbit _ _ _ => []
  | .clz _ _ => []
  | .ctz _ _ => []
  | .popc _ _ => []
  | .eq _ _ _ => []
  | .ne _ _ _ => []
  | .lt _ _ _ => []
  | .le _ _ _ => []
  | .gt _ _ _ => []
  | .ge _ _ _ => []
  | .cmp _ _ _ => []
  | .isodd _ _ => []
  | .iseven _ _ => []
  | .min _ _ _ => []
  | .max _ _ _ => []
  | .froms _ _ => []
  | .fromw _ _ _ => []
  | .fromle _ _ _ => []
  | .frombe _ _ _ => []
  | .tow _ _ => []
  | .tole _ _ => []
  | .tobe _ _ => []
  | .dec _ _ _ => []
  | .hex _ _ _ => []
  | .pdec _ pa _ => [pa]
  | .sli _ _ => []
  | .sshi _ _ => []
  | .lds _ _ => []
  | .sts _ _ => []
  | .smov _ _ => []

/-- The scalar registers a command reads (10_state.md R24). -/
def Instr.srcS : Instr → List SReg
  | .nop => []
  | .mov _ _ => []
  | .zero _ => []
  | .one _ => []
  | .maxv _ => []
  | .add _ _ _ => []
  | .sub _ _ _ => []
  | .mul _ _ _ => []
  | .div _ _ _ => []
  | .mod _ _ _ => []
  | .plo _ _ => []
  | .phi _ _ => []
  | .pisz _ _ => []
  | .and _ _ _ => []
  | .or _ _ _ => []
  | .xor _ _ _ => []
  | .not _ _ => []
  | .shl _ _ sb => [sb]
  | .shr _ _ sb => [sb]
  | .shli _ _ _ => []
  | .shri _ _ _ => []
  | .bit _ _ sb => [sb]
  | .setbit _ _ sb => [sb]
  | .clrbit _ _ sb => [sb]
  | .flipbit _ _ sb => [sb]
  | .clz _ _ => []
  | .ctz _ _ => []
  | .popc _ _ => []
  | .eq _ _ _ => []
  | .ne _ _ _ => []
  | .lt _ _ _ => []
  | .le _ _ _ => []
  | .gt _ _ _ => []
  | .ge _ _ _ => []
  | .cmp _ _ _ => []
  | .isodd _ _ => []
  | .iseven _ _ => []
  | .min _ _ _ => []
  | .max _ _ _ => []
  | .froms _ sa => [sa]
  | .fromw _ sa sb => [sa, sb]
  | .fromle _ sa sb => [sa, sb]
  | .frombe _ sa sb => [sa, sb]
  | .tow _ sb => [sb]
  | .tole _ sb => [sb]
  | .tobe _ sb => [sb]
  | .dec _ _ sb => [sb]
  | .hex _ _ sb => [sb]
  | .pdec _ _ sb => [sb]
  | .sli _ _ => []
  | .sshi sd _ => [sd]
  | .lds _ sa => [sa]
  | .sts sa sb => [sa, sb]
  | .smov _ sa => [sa]

end Sys2Proof

namespace Sys2Proof.Machine

/-- The region of `BUF` a command names to read, as address and byte count (44_codec.md R232 to R234, 45_scalar.md
R272). -/
def namedRegion (s : State) : Instr → Option (Nat × Nat)
  | .nop => none
  | .mov _ _ => none
  | .zero _ => none
  | .one _ => none
  | .maxv _ => none
  | .add _ _ _ => none
  | .sub _ _ _ => none
  | .mul _ _ _ => none
  | .div _ _ _ => none
  | .mod _ _ _ => none
  | .plo _ _ => none
  | .phi _ _ => none
  | .pisz _ _ => none
  | .and _ _ _ => none
  | .or _ _ _ => none
  | .xor _ _ _ => none
  | .not _ _ => none
  | .shl _ _ _ => none
  | .shr _ _ _ => none
  | .shli _ _ _ => none
  | .shri _ _ _ => none
  | .bit _ _ _ => none
  | .setbit _ _ _ => none
  | .clrbit _ _ _ => none
  | .flipbit _ _ _ => none
  | .clz _ _ => none
  | .ctz _ _ => none
  | .popc _ _ => none
  | .eq _ _ _ => none
  | .ne _ _ _ => none
  | .lt _ _ _ => none
  | .le _ _ _ => none
  | .gt _ _ _ => none
  | .ge _ _ _ => none
  | .cmp _ _ _ => none
  | .isodd _ _ => none
  | .iseven _ _ => none
  | .min _ _ _ => none
  | .max _ _ _ => none
  | .froms _ _ => none
  | .fromw _ sa sb => some (s.natS sa, 8 * s.natS sb)
  | .fromle _ sa sb => some (s.natS sa, s.natS sb)
  | .frombe _ sa sb => some (s.natS sa, s.natS sb)
  | .tow _ _ => none
  | .tole _ _ => none
  | .tobe _ _ => none
  | .dec _ _ _ => none
  | .hex _ _ _ => none
  | .pdec _ _ _ => none
  | .sli _ _ => none
  | .sshi _ _ => none
  | .lds _ sa => some (s.natS sa, 8)
  | .sts _ _ => none
  | .smov _ _ => none

/-- The bytes of that region the result depends on (44_codec.md R232 to R234, 45_scalar.md R272). -/
def usedRegion (s : State) : Instr → Option (Nat × Nat)
  | .nop => none
  | .mov _ _ => none
  | .zero _ => none
  | .one _ => none
  | .maxv _ => none
  | .add _ _ _ => none
  | .sub _ _ _ => none
  | .mul _ _ _ => none
  | .div _ _ _ => none
  | .mod _ _ _ => none
  | .plo _ _ => none
  | .phi _ _ => none
  | .pisz _ _ => none
  | .and _ _ _ => none
  | .or _ _ _ => none
  | .xor _ _ _ => none
  | .not _ _ => none
  | .shl _ _ _ => none
  | .shr _ _ _ => none
  | .shli _ _ _ => none
  | .shri _ _ _ => none
  | .bit _ _ _ => none
  | .setbit _ _ _ => none
  | .clrbit _ _ _ => none
  | .flipbit _ _ _ => none
  | .clz _ _ => none
  | .ctz _ _ => none
  | .popc _ _ => none
  | .eq _ _ _ => none
  | .ne _ _ _ => none
  | .lt _ _ _ => none
  | .le _ _ _ => none
  | .gt _ _ _ => none
  | .ge _ _ _ => none
  | .cmp _ _ _ => none
  | .isodd _ _ => none
  | .iseven _ _ => none
  | .min _ _ _ => none
  | .max _ _ _ => none
  | .froms _ _ => none
  | .fromw _ sa sb => some (s.natS sa, 8 * min (s.natS sb) s.nwords)
  | .fromle _ sa sb => some (s.natS sa, min (s.natS sb) s.valueBytes)
  | .frombe _ sa sb => some (s.natS sa + (s.natS sb - min (s.natS sb) s.valueBytes), min (s.natS sb) s.valueBytes)
  | .tow _ _ => none
  | .tole _ _ => none
  | .tobe _ _ => none
  | .dec _ _ _ => none
  | .hex _ _ _ => none
  | .pdec _ _ _ => none
  | .sli _ _ => none
  | .sshi _ _ => none
  | .lds _ sa => some (s.natS sa, 8)
  | .sts _ _ => none
  | .smov _ _ => none

/-- The region of `BUF` a command writes, as address and byte count (44_codec.md R235 to R237, R240 to R242,
45_scalar.md R273). -/
def storedRegion (s : State) : Instr → Option (Nat × Nat)
  | .nop => none
  | .mov _ _ => none
  | .zero _ => none
  | .one _ => none
  | .maxv _ => none
  | .add _ _ _ => none
  | .sub _ _ _ => none
  | .mul _ _ _ => none
  | .div _ _ _ => none
  | .mod _ _ _ => none
  | .plo _ _ => none
  | .phi _ _ => none
  | .pisz _ _ => none
  | .and _ _ _ => none
  | .or _ _ _ => none
  | .xor _ _ _ => none
  | .not _ _ => none
  | .shl _ _ _ => none
  | .shr _ _ _ => none
  | .shli _ _ _ => none
  | .shri _ _ _ => none
  | .bit _ _ _ => none
  | .setbit _ _ _ => none
  | .clrbit _ _ _ => none
  | .flipbit _ _ _ => none
  | .clz _ _ => none
  | .ctz _ _ => none
  | .popc _ _ => none
  | .eq _ _ _ => none
  | .ne _ _ _ => none
  | .lt _ _ _ => none
  | .le _ _ _ => none
  | .gt _ _ _ => none
  | .ge _ _ _ => none
  | .cmp _ _ _ => none
  | .isodd _ _ => none
  | .iseven _ _ => none
  | .min _ _ _ => none
  | .max _ _ _ => none
  | .froms _ _ => none
  | .fromw _ _ _ => none
  | .fromle _ _ _ => none
  | .frombe _ _ _ => none
  | .tow _ sb => some (s.natS sb, s.valueBytes)
  | .tole _ sb => some (s.natS sb, s.valueBytes)
  | .tobe _ sb => some (s.natS sb, s.valueBytes)
  | .dec _ va sb => some (s.natS sb, (decString (s.readV va)).length)
  | .hex _ va sb => some (s.natS sb, (hexString s.nwords (s.readV va)).length)
  | .pdec _ pa sb => some (s.natS sb, (decString (s.readP pa)).length)
  | .sli _ _ => none
  | .sshi _ _ => none
  | .lds _ _ => none
  | .sts sa _ => some (s.natS sa, 8)
  | .smov _ _ => none

/-- The divisor of a command that divides (41_arithmetic.md R124, R125). -/
def divisorOf : Instr → Option VReg
  | .nop => none
  | .mov _ _ => none
  | .zero _ => none
  | .one _ => none
  | .maxv _ => none
  | .add _ _ _ => none
  | .sub _ _ _ => none
  | .mul _ _ _ => none
  | .div _ _ vb => some vb
  | .mod _ _ vb => some vb
  | .plo _ _ => none
  | .phi _ _ => none
  | .pisz _ _ => none
  | .and _ _ _ => none
  | .or _ _ _ => none
  | .xor _ _ _ => none
  | .not _ _ => none
  | .shl _ _ _ => none
  | .shr _ _ _ => none
  | .shli _ _ _ => none
  | .shri _ _ _ => none
  | .bit _ _ _ => none
  | .setbit _ _ _ => none
  | .clrbit _ _ _ => none
  | .flipbit _ _ _ => none
  | .clz _ _ => none
  | .ctz _ _ => none
  | .popc _ _ => none
  | .eq _ _ _ => none
  | .ne _ _ _ => none
  | .lt _ _ _ => none
  | .le _ _ _ => none
  | .gt _ _ _ => none
  | .ge _ _ _ => none
  | .cmp _ _ _ => none
  | .isodd _ _ => none
  | .iseven _ _ => none
  | .min _ _ _ => none
  | .max _ _ _ => none
  | .froms _ _ => none
  | .fromw _ _ _ => none
  | .fromle _ _ _ => none
  | .frombe _ _ _ => none
  | .tow _ _ => none
  | .tole _ _ => none
  | .tobe _ _ => none
  | .dec _ _ _ => none
  | .hex _ _ _ => none
  | .pdec _ _ _ => none
  | .sli _ _ => none
  | .sshi _ _ => none
  | .lds _ _ => none
  | .sts _ _ => none
  | .smov _ _ => none
/-- A region is in range (20_memory.md R47). -/
def regionOk : Option (Nat × Nat) → Prop
  | none => True
  | some (addr, n) => addr + n ≤ 4096

/-- Every byte of a region has been written since reset (70_reset_and_hazards.md R341). -/
def regionWritten (s : State) : Option (Nat × Nat) → Prop
  | none => True
  | some (addr, n) => ∀ k, k < n → s.buf.byteAt (addr + k) ≠ none

/-- An address in a region. -/
def inRegion (a : Nat) : Option (Nat × Nat) → Prop
  | none => False
  | some (addr, n) => addr ≤ a ∧ a < addr + n

/-- The divisor of a command that divides is not zero (60_exceptions.md R300). -/
def divisorOk (i : Instr) (s : State) : Prop := ∀ vb, divisorOf i = some vb → s.readV vb ≠ 0

/-- The conditions under which a command completes without error (60_exceptions.md R300, R301): a divisor that is not
0, its regions in range, and the bytes its result depends on written (R341). -/
def Completes (i : Instr) (s : State) : Prop :=
  divisorOk i s ∧ regionOk (namedRegion s i) ∧ regionWritten s (usedRegion s i) ∧ regionOk (storedRegion s i)

/-- The error a decoded command meets in a state, if any (60_exceptions.md R300). -/
def Meets (i : Instr) (s : State) : ErrorCause → Prop
  | .divisionByZero => ¬ divisorOk i s
  | .illegalCommand => False
  | .bufferRange => ¬ regionOk (namedRegion s i) ∨ ¬ regionOk (storedRegion s i)

/-- Everything but registers, `BUF` and the error record: the instance, the engine, CMDCOUNT, DROP and the model's
own fields. -/
structure SameControl (s t : State) : Prop where
  inst : t.inst = s.inst
  phase : t.phase = s.phase
  drop : t.drop = s.drop
  cmdcount : t.cmdcount = s.cmdcount
  pending : t.pending = s.pending
  returned : t.returned = s.returned
  schedule : t.schedule = s.schedule
  resets : t.resets = s.resets

/-- The error record: ERR, ERRCAUSE and ERRCMD. -/
structure SameErrors (s t : State) : Prop where
  err : t.err = s.err
  errcause : t.errcause = s.errcause
  errcmd : t.errcmd = s.errcmd

/-- What a command that completes may change: the named V, P and S register, and the `BUF` bytes at the addresses
`stored`. Every other register, byte and field is as before. -/
structure OnlyWrites (vd : Option VReg) (pd : Option PReg) (sd : Option SReg) (stored : Nat → Prop) (s t : State) :
    Prop where
  v : ∀ r, vd ≠ some r → t.readV r = s.readV r
  p : ∀ r, pd ≠ some r → t.readP r = s.readP r
  scalar : ∀ r, sd ≠ some r → t.readS r = s.readS r
  buf : ∀ a, ¬ stored a → t.buf.byteAt a = s.buf.byteAt a
  errors : SameErrors s t
  control : SameControl s t

/-- The frame of a command that writes one V register. -/
def OnlyWritesV (d : VReg) (s t : State) : Prop := OnlyWrites (some d) none none (fun _ => False) s t

/-- The frame of a command that writes one S register. -/
def OnlyWritesS (d : SReg) (s t : State) : Prop := OnlyWrites none none (some d) (fun _ => False) s t

/-- A command word c ended with error e: the error record says so, and nothing else differs
(60_exceptions.md R303, R304). -/
structure ErrorTaken (e : ErrorCause) (c : Word32) (s t : State) : Prop where
  err : t.err = true
  errcause : t.errcause = some e
  errcmd : t.errcmd = c
  v : ∀ r, t.readV r = s.readV r
  p : ∀ r, t.readP r = s.readP r
  scalar : ∀ r, t.readS r = s.readS r
  buf : t.buf = s.buf
  control : SameControl s t

/-- The commands that can raise each cause (60_exceptions.md R300, column "raised by"): an illegal word is no command,
the dividing commands are DIV and MOD, and the others are those that name a region of `BUF`. -/
def RaisedBy (e : ErrorCause) (c : Word32) : Prop :=
  match e with
  | .illegalCommand => ∃ r, decode c = .error r
  | .divisionByZero => ∃ d a b, decode c = .ok (.div d a b) ∨ decode c = .ok (.mod d a b)
  | .bufferRange => ∃ i, decode c = .ok i ∧
      i.mnemonic ∈ ([.fromw, .fromle, .frombe, .tow, .tole, .tobe, .dec, .hex, .pdec, .lds, .sts] : List Mnemonic)

/-- The invariant of the machine. -/
structure State.Inv (s : State) : Prop where
  /-- `BUF` keeps its canonical form inside its 4096 bytes (10_state.md R26). -/
  buf : s.buf.wf = true
  /-- No command executes while an error is pending (60_exceptions.md R308). -/
  busy : s.isBusy = true → s.err = false
  /-- An error pending or commands dropped: a cause is recorded (60_exceptions.md R304, R306). -/
  cause : s.err = true ∨ s.drop = true → s.errcause ≠ none
  /-- No error since reset: ERRCMD has its reset value (10_state.md R34, R35). -/
  clear : s.errcause = none → s.errcmd = 0
  /-- The recorded command is one that can raise the recorded cause (60_exceptions.md R300). -/
  record : ∀ e, s.errcause = some e → RaisedBy e s.errcmd

/-- The state after reset with whatever the unspecified registers hold (70_reset_and_hazards.md R340, R341). -/
structure State.AfterReset (s : State) : Prop where
  phase : s.phase = .idle
  err : s.err = false
  drop : s.drop = false
  errcause : s.errcause = none
  errcmd : s.errcmd = 0
  cmdcount : s.cmdcount = 0
  buf : ∀ a, s.buf.byteAt a = none

/-- A command completes, its value register holds `x`, and nothing else changes. -/
def WritesV (i : Instr) (s : State) (d : VReg) (x : Nat) : Prop :=
  ∃ t, exec i s = .next t ∧ t.readV d = x ∧ OnlyWritesV d s t

/-- A command completes, its wide register holds `x`, and nothing else changes. -/
def WritesP (i : Instr) (s : State) (d : PReg) (x : Nat) : Prop :=
  ∃ t, exec i s = .next t ∧ t.readP d = x ∧ OnlyWrites none (some d) none (fun _ => False) s t

/-- A command completes, its scalar register holds `x`, and nothing else changes. -/
def WritesS (i : Instr) (s : State) (d : SReg) (x : Scalar) : Prop :=
  ∃ t, exec i s = .next t ∧ t.readS d = x ∧ OnlyWritesS d s t

/-- A command completes, the bytes of the region at `addr` are the given ones, and nothing else changes but, where one
is named, a scalar register, which holds `x`. -/
def StoresBytes (i : Instr) (s : State) (addr : Nat) (bytes : List Byte) (sd : Option SReg) (x : Scalar) : Prop :=
  ∃ t, exec i s = .next t ∧ (∀ k, k < bytes.length → t.buf.byteAt (addr + k) = bytes[k]?) ∧
    (∀ d, sd = some d → t.readS d = x) ∧
    OnlyWrites none none sd (fun a => addr ≤ a ∧ a < addr + bytes.length) s t

/-- A command ends with the error: the record says so and nothing else differs (60_exceptions.md R303, R304). ERRCMD is
the encoding of the command, which is the accepted word (assumption log 8). -/
def EndsWithError (i : Instr) (s : State) (e : ErrorCause) : Prop :=
  ∃ t, exec i s = .next t ∧ ErrorTaken e (encode i) s t

/-- Byte i of a natural, byte 0 least significant. -/
def byteOf (x i : Nat) : Byte := BitVec.ofNat 8 (x / 256 ^ i)

/-- The base-10 numeral of a natural in ASCII, most significant digit first. -/
def decimalNumeral (x : Nat) : List Byte :=
  if x = 0 then [0x30] else ((Nat.digits 10 x).map fun d => BitVec.ofNat 8 (0x30 + d)).reverse

/-- "0x" and the base-16 numeral of a natural in ASCII, lower case, most significant digit first. -/
def hexNumeral (x : Nat) : List Byte :=
  0x30 :: 0x78 :: if x = 0 then [0x30]
    else ((Nat.digits 16 x).map fun d => BitVec.ofNat 8 (if d < 10 then 0x30 + d else 0x61 + (d - 10))).reverse

/-- Commands one after the other, stopping at the first that does not go on. -/
def execAll : List Instr → State → Result
  | [], s => .next s
  | i :: is, s =>
    match exec i s with
    | .next t => execAll is t
    | r => r

/-- The accesses performed at once even while BUSY: reads of ID, CONFIG, BUFSIZE and STATUS, writes of STATUS
(20_memory.md R51). -/
def PerformedAtOnce (a : HostAccess) : Prop :=
  a ∈ ([.read 0x000 .word, .read 0x004 .word, .read 0x008 .word, .read 0x010 .word] : List HostAccess) ∨
  ∃ d, a = .write 0x010 .word d

/-- The accesses that are host bus errors: misaligned ones, and those below 0x1000 that are not 4 bytes wide
(20_memory.md R43). -/
def BusError (a : HostAccess) : Prop :=
  a.offset.toNat % a.width.bytes ≠ 0 ∨ a.offset.toNat < 0x1000 ∧ a.width.bytes ≠ 4

/-- The host's turn with the engine idle: its next access is performed. -/
def HostTurnIdle (s : State) : Prop := s.phase = .idle ∧ ∀ fate, s.turn ≠ .reset fate

/-- The state with the host's next access taken from its list. -/
def State.afterHost (s : State) : State := { s.takeTurn with pending := s.pending.tail }

end Sys2Proof.Machine
end

