-- ==== Sys2Proof/Certificates/Slice0/Obligations.lean ====
section
/-! DEFINITION. The statements of this model, one definition each. OBLIGATIONS.json says which rule of spec/ each one
formalises. -/

open Sys2Proof Sys2Proof.Machine

/-! ## Encoding (30_encoding.md) -/

/-- Decoding an encoded command gives it back, every operand at every value its field admits (R71 to R77). -/
def Obligations.DecodeOfEncode : Prop := ∀ i : Instr, decode (encode i) = .ok i

/-- Each legal word has one meaning and each command one word (R77). -/
def Obligations.EncodeOfDecode : Prop := ∀ (c : Word32) (i : Instr), decode c = .ok i → encode i = c

/-- A word decodes to the row its masked bits match, its operand fields are that command's, at most one row matches,
and a word that no row matches is illegal (R77). -/
def Obligations.DecodeFollowsOpcodeMap : Prop :=
  (∀ (c : Word32) (m : Mnemonic), c &&& m.mask = m.pat → ∃ i, decode c = .ok i ∧ i.mnemonic = m ∧ encode i = c) ∧
  (∀ (c : Word32) (i : Instr), decode c = .ok i → c &&& i.mnemonic.mask = i.mnemonic.pat) ∧
  (∀ (c : Word32) (m m' : Mnemonic), c &&& m.mask = m.pat → c &&& m'.mask = m'.pat → m = m') ∧
  (∀ c : Word32, (∀ m : Mnemonic, c &&& m.mask ≠ m.pat) → ∃ r, decode c = .error r)

/-- The encoding examples (R84). -/
def Obligations.SpecExampleWordsDecode : Prop :=
  decode 0x10123000 = .ok (.add 1 2 3) ∧
  decode 0x12123000 = .ok (.mul 1 2 3) ∧
  decode 0x26010201 = .ok (.shli 0 1 513) ∧
  decode 0x5050BEEF = .ok (.sli 5 0xBEEF) ∧
  decode 0x45072000 = .ok (.tole 7 2) ∧
  decode 0x49134000 = .ok (.pdec 1 3 4) ∧
  decode 0x00000000 = .ok .nop ∧
  decode 0x12423000 = .error .wideSlot

/-- The illegal words, and what an accepted one does: an opcode byte that is in no row; a listed opcode with a 1 in a
must-be-zero bit or a wide slot above 3, that is a masked bit that differs from its row's; each raises IllegalCommand
and changes nothing else (R78). -/
def Obligations.IllegalWordRaisesIllegalCommand : Prop :=
  (∀ c : Word32, (∀ m : Mnemonic, opByte c ≠ m.opcode) → ∃ r, decode c = .error r) ∧
  (∀ (c : Word32) (m : Mnemonic), opByte c = m.opcode → c &&& m.mask ≠ m.pat → ∃ r, decode c = .error r) ∧
  (∀ (s : State) (c : Word32) (r : Illegal), s.phase = .busy c → s.turn = .engine → decode c = .error r →
    ∃ t, step s = .next t ∧ ErrorTaken .illegalCommand c s.takeTurn.complete t) ∧
  decode 0x00000000 = .ok .nop ∧
  (∃ r, decode 0xFFFFFFFF = .error r)

/-- Executing the expansion of `LI sd, x` leaves u64(x) in S[sd] and changes nothing else; it is one to four commands
(R83). -/
def Obligations.LiExpansionLoadsConstant : Prop :=
  ∀ (s : State) (sd : SReg) (x : Int), -2 ^ 63 ≤ x → x < 2 ^ 64 →
    1 ≤ (Pseudo.li sd x).expand.length ∧ (Pseudo.li sd x).expand.length ≤ 4 ∧
    ∃ t, execAll (Pseudo.li sd x).expand s = .next t ∧ t.readS sd = BitVec.ofInt 64 x ∧ OnlyWritesS sd s t

/-! ## Results of the commands -/

/-- NOP, MOV, ZERO, ONE, MAXV (40_representation.md R100 to R104). -/
def Obligations.RepresentationResults : Prop :=
  (decode 0x00000000 = .ok .nop ∧ ∀ s, exec .nop s = .next s) ∧
  (∀ (s : State) (vd va : VReg), decode (0x01#8 ++ vd ++ va ++ 0#4 ++ 0#12) = .ok (.mov vd va) ∧
    WritesV (.mov vd va) s vd (s.readV va)) ∧
  (∀ (s : State) (vd : VReg), decode (0x02#8 ++ vd ++ 0#4 ++ 0#4 ++ 0#12) = .ok (.zero vd) ∧
    WritesV (.zero vd) s vd 0) ∧
  (∀ (s : State) (vd : VReg), decode (0x03#8 ++ vd ++ 0#4 ++ 0#4 ++ 0#12) = .ok (.one vd) ∧
    WritesV (.one vd) s vd 1) ∧
  (∀ (s : State) (vd : VReg), decode (0x04#8 ++ vd ++ 0#4 ++ 0#4 ++ 0#12) = .ok (.maxv vd) ∧
    WritesV (.maxv vd) s vd (2 ^ s.width - 1))

/-- ADD and SUB wrap modulo 2^W, and are what the word loops with carry and borrow compute (41_arithmetic.md R120,
R121). -/
def Obligations.AddSubResults : Prop :=
  (∀ (s : State) (vd va vb : VReg), decode (0x10#8 ++ vd ++ va ++ vb ++ 0#12) = .ok (.add vd va vb) ∧
    WritesV (.add vd va vb) s vd ((s.readV va + s.readV vb) % 2 ^ s.width) ∧
    WritesV (.add vd va vb) s vd (Reference.valueOf (Reference.addCarry
      (Reference.wordsOf s.nwords (s.readV va)) (Reference.wordsOf s.nwords (s.readV vb)) 0))) ∧
  (∀ (s : State) (vd va vb : VReg), decode (0x11#8 ++ vd ++ va ++ vb ++ 0#12) = .ok (.sub vd va vb) ∧
    WritesV (.sub vd va vb) s vd (((s.readV va : Int) - s.readV vb) % 2 ^ s.width).toNat ∧
    WritesV (.sub vd va vb) s vd (Reference.valueOf (Reference.subBorrow
      (Reference.wordsOf s.nwords (s.readV va)) (Reference.wordsOf s.nwords (s.readV vb)) 0)))

/-- MUL gives the exact product, which is what the schoolbook loop computes (41_arithmetic.md R122). -/
def Obligations.MulResult : Prop :=
  ∀ (s : State) (pd : PReg) (va vb : VReg), decode (0x12#8 ++ (0#2 ++ pd) ++ va ++ vb ++ 0#12) = .ok (.mul pd va vb) ∧
    WritesP (.mul pd va vb) s pd (s.readV va * s.readV vb) ∧
    WritesP (.mul pd va vb) s pd (Reference.valueOf (Reference.mulWords s.nwords
      (Reference.wordsOf s.nwords (s.readV va)) (Reference.wordsOf s.nwords (s.readV vb))))

/-- What MUL leaves in its register is at most (2^W - 1)^2 = 2^(2W) - 2^(W+1) + 1, so its high half is at most 2^W - 2
and it is never 2^(2W) - 1 (10_state.md R23, but for its remark on the top word, which that bound contradicts: assumption
log 9). -/
def Obligations.MulStaysBelowTop : Prop :=
  ∀ (s : State) (pd : PReg) (va vb : VReg), ∃ t, exec (.mul pd va vb) s = .next t ∧
    t.readP pd ≤ (2 ^ s.width - 1) ^ 2 ∧
    (2 ^ s.width - 1) ^ 2 + 2 ^ (s.width + 1) = 2 ^ (2 * s.width) + 1 ∧
    t.readP pd / 2 ^ s.width ≤ 2 ^ s.width - 2 ∧
    t.readP pd ≠ 2 ^ (2 * s.width) - 1

/-- DIV and MOD by a non-zero divisor give the pair that the binary long division computes; by zero they raise
DivisionByZero and write nothing (41_arithmetic.md R124, R125). -/
def Obligations.DivModResults : Prop :=
  ∀ (s : State) (vd va vb : VReg),
    decode (0x13#8 ++ vd ++ va ++ vb ++ 0#12) = .ok (.div vd va vb) ∧
    decode (0x14#8 ++ vd ++ va ++ vb ++ 0#12) = .ok (.mod vd va vb) ∧
    (s.readV vb ≠ 0 →
      WritesV (.div vd va vb) s vd (Reference.longDiv s.width (s.readV va) (s.readV vb)).1 ∧
      WritesV (.mod vd va vb) s vd (Reference.longDiv s.width (s.readV va) (s.readV vb)).2) ∧
    (s.readV vb = 0 →
      EndsWithError (.div vd va vb) s .divisionByZero ∧ EndsWithError (.mod vd va vb) s .divisionByZero)

/-- PLO, PHI and PISZ read the wide product (41_arithmetic.md R127 to R129). -/
def Obligations.WideProductReads : Prop :=
  (∀ (s : State) (vd : VReg) (pa : PReg), decode (0x18#8 ++ vd ++ (0#2 ++ pa) ++ 0#4 ++ 0#12) = .ok (.plo vd pa) ∧
    WritesV (.plo vd pa) s vd (s.readP pa % 2 ^ s.width)) ∧
  (∀ (s : State) (vd : VReg) (pa : PReg), decode (0x19#8 ++ vd ++ (0#2 ++ pa) ++ 0#4 ++ 0#12) = .ok (.phi vd pa) ∧
    WritesV (.phi vd pa) s vd (s.readP pa / 2 ^ s.width)) ∧
  (∀ (s : State) (sd : SReg) (pa : PReg), decode (0x1A#8 ++ sd ++ (0#2 ++ pa) ++ 0#4 ++ 0#12) = .ok (.pisz sd pa) ∧
    WritesS (.pisz sd pa) s sd (if s.readP pa = 0 then 1 else 0))

/-- AND, OR, XOR and NOT bit by bit over the W bits (42_bit.md R160 to R163). -/
def Obligations.LogicResults : Prop :=
  ∀ (s : State) (vd va vb : VReg),
    (decode (0x20#8 ++ vd ++ va ++ vb ++ 0#12) = .ok (.and vd va vb) ∧
      ∃ t, exec (.and vd va vb) s = .next t ∧ OnlyWritesV vd s t ∧
        ∀ k, (t.readV vd).testBit k = ((s.readV va).testBit k && (s.readV vb).testBit k)) ∧
    (decode (0x21#8 ++ vd ++ va ++ vb ++ 0#12) = .ok (.or vd va vb) ∧
      ∃ t, exec (.or vd va vb) s = .next t ∧ OnlyWritesV vd s t ∧
        ∀ k, (t.readV vd).testBit k = ((s.readV va).testBit k || (s.readV vb).testBit k)) ∧
    (decode (0x22#8 ++ vd ++ va ++ vb ++ 0#12) = .ok (.xor vd va vb) ∧
      ∃ t, exec (.xor vd va vb) s = .next t ∧ OnlyWritesV vd s t ∧
        ∀ k, (t.readV vd).testBit k = ((s.readV va).testBit k ^^ (s.readV vb).testBit k)) ∧
    (decode (0x23#8 ++ vd ++ va ++ 0#4 ++ 0#12) = .ok (.not vd va) ∧
      ∃ t, exec (.not vd va) s = .next t ∧ OnlyWritesV vd s t ∧ t.readV vd = 2 ^ s.width - 1 - s.readV va ∧
        ∀ k, k < s.width → (t.readV vd).testBit k = !(s.readV va).testBit k)

/-- AND, OR, XOR and NOT are N independent 64-bit lanes (42_bit.md R176). -/
def Obligations.LogicIsLanewise : Prop :=
  ∀ (s t : State) (vd va vb : VReg) (j : Nat), j < s.nwords →
    (exec (.and vd va vb) s = .next t →
      wordAt (t.readV vd) j = wordAt (s.readV va) j &&& wordAt (s.readV vb) j) ∧
    (exec (.or vd va vb) s = .next t →
      wordAt (t.readV vd) j = wordAt (s.readV va) j ||| wordAt (s.readV vb) j) ∧
    (exec (.xor vd va vb) s = .next t →
      wordAt (t.readV vd) j = wordAt (s.readV va) j ^^^ wordAt (s.readV vb) j) ∧
    (exec (.not vd va) s = .next t →
      wordAt (t.readV vd) j = 2 ^ 64 - 1 - wordAt (s.readV va) j)

/-- The shifts: (a · 2^n) mod 2^W and a div 2^n, 0 at every count of W or more, the count unsigned or the
zero-extended immediate (42_bit.md R164 to R167). -/
def Obligations.ShiftResults : Prop :=
  (∀ (s : State) (vd va : VReg) (sb : SReg),
    decode (0x24#8 ++ vd ++ va ++ sb ++ 0#12) = .ok (.shl vd va sb) ∧
    decode (0x25#8 ++ vd ++ va ++ sb ++ 0#12) = .ok (.shr vd va sb) ∧
    WritesV (.shl vd va sb) s vd (s.readV va * 2 ^ (s.readS sb).toNat % 2 ^ s.width) ∧
    WritesV (.shr vd va sb) s vd (s.readV va / 2 ^ (s.readS sb).toNat) ∧
    (s.width ≤ (s.readS sb).toNat → WritesV (.shl vd va sb) s vd 0 ∧ WritesV (.shr vd va sb) s vd 0)) ∧
  (∀ (s : State) (vd va : VReg) (x : Imm16),
    decode (0x26#8 ++ vd ++ va ++ x) = .ok (.shli vd va x) ∧
    decode (0x27#8 ++ vd ++ va ++ x) = .ok (.shri vd va x) ∧
    WritesV (.shli vd va x) s vd (s.readV va * 2 ^ x.toNat % 2 ^ s.width) ∧
    WritesV (.shri vd va x) s vd (s.readV va / 2 ^ x.toNat) ∧
    (s.width ≤ x.toNat → WritesV (.shli vd va x) s vd 0 ∧ WritesV (.shri vd va x) s vd 0))

/-- SHL, SHR, SHLI and SHRI are what the two-stage word loops compute, SHLI and SHRI with the immediate as the count
(42_bit.md R164 to R167). -/
def Obligations.ShiftLoopsAgree : Prop :=
  (∀ (s : State) (vd va : VReg) (sb : SReg),
    WritesV (.shl vd va sb) s vd (Reference.valueOf
      (Reference.shlWords s.nwords (Reference.wordsOf s.nwords (s.readV va)) (s.readS sb).toNat)) ∧
    WritesV (.shr vd va sb) s vd (Reference.valueOf
      (Reference.shrWords s.nwords (Reference.wordsOf s.nwords (s.readV va)) (s.readS sb).toNat))) ∧
  (∀ (s : State) (vd va : VReg) (x : Imm16),
    WritesV (.shli vd va x) s vd (Reference.valueOf
      (Reference.shlWords s.nwords (Reference.wordsOf s.nwords (s.readV va)) x.toNat)) ∧
    WritesV (.shri vd va x) s vd (Reference.valueOf
      (Reference.shrWords s.nwords (Reference.wordsOf s.nwords (s.readV va)) x.toNat)))

/-- The single-bit commands at a signed index: the bit read, set, cleared or inverted in [0, W); outside it 0 is read
and the value is copied unchanged (42_bit.md R168 to R172). -/
def Obligations.BitAccessResults : Prop :=
  ∀ (s : State) (sd : SReg) (vd va : VReg) (sb : SReg),
    decode (0x28#8 ++ sd ++ va ++ sb ++ 0#12) = .ok (.bit sd va sb) ∧
    decode (0x29#8 ++ vd ++ va ++ sb ++ 0#12) = .ok (.setbit vd va sb) ∧
    decode (0x2A#8 ++ vd ++ va ++ sb ++ 0#12) = .ok (.clrbit vd va sb) ∧
    decode (0x2B#8 ++ vd ++ va ++ sb ++ 0#12) = .ok (.flipbit vd va sb) ∧
    (∀ i : Nat, (s.readS sb).toInt = i → i < s.width →
      WritesS (.bit sd va sb) s sd (if (s.readV va).testBit i then 1 else 0) ∧
      (∃ t, exec (.setbit vd va sb) s = .next t ∧ OnlyWritesV vd s t ∧
        ∀ k, (t.readV vd).testBit k = (k == i || (s.readV va).testBit k)) ∧
      (∃ t, exec (.clrbit vd va sb) s = .next t ∧ OnlyWritesV vd s t ∧
        ∀ k, (t.readV vd).testBit k = (k != i && (s.readV va).testBit k)) ∧
      (∃ t, exec (.flipbit vd va sb) s = .next t ∧ OnlyWritesV vd s t ∧
        ∀ k, (t.readV vd).testBit k = ((k == i) ^^ (s.readV va).testBit k))) ∧
    ((s.readS sb).toInt < 0 ∨ (s.width : Int) ≤ (s.readS sb).toInt →
      WritesS (.bit sd va sb) s sd 0 ∧
      WritesV (.setbit vd va sb) s vd (s.readV va) ∧
      WritesV (.clrbit vd va sb) s vd (s.readV va) ∧
      WritesV (.flipbit vd va sb) s vd (s.readV va))

/-- The counters: W minus the bit length, the position of the lowest 1 bit (W for zero), the number of 1 bits
(42_bit.md R173 to R175). -/
def Obligations.CounterResults : Prop :=
  ∀ (s : State) (sd : SReg) (va : VReg),
    decode (0x2C#8 ++ sd ++ va ++ 0#4 ++ 0#12) = .ok (.clz sd va) ∧
    decode (0x2D#8 ++ sd ++ va ++ 0#4 ++ 0#12) = .ok (.ctz sd va) ∧
    decode (0x2E#8 ++ sd ++ va ++ 0#4 ++ 0#12) = .ok (.popc sd va) ∧
    (∃ t, exec (.clz sd va) s = .next t ∧ OnlyWritesS sd s t ∧ (t.readS sd).toNat = s.width - (s.readV va).size) ∧
    (∃ t, exec (.ctz sd va) s = .next t ∧ OnlyWritesS sd s t ∧
      (s.readV va = 0 → (t.readS sd).toNat = s.width) ∧
      (s.readV va ≠ 0 → (s.readV va).testBit (t.readS sd).toNat = true ∧
        ∀ k, k < (t.readS sd).toNat → (s.readV va).testBit k = false)) ∧
    (∃ t, exec (.popc sd va) s = .next t ∧ OnlyWritesS sd s t ∧
      (t.readS sd).toNat = ((List.range s.width).filter fun k => (s.readV va).testBit k).length)

/-- The counters are what the word scans compute (42_bit.md R173 to R175). -/
def Obligations.CounterScansAgree : Prop :=
  ∀ (s : State) (sd : SReg) (va : VReg),
    WritesS (.clz sd va) s sd
      (BitVec.ofNat 64 (Reference.clzScan (Reference.wordsOf s.nwords (s.readV va)).reverse)) ∧
    WritesS (.ctz sd va) s sd (BitVec.ofNat 64 (Reference.ctzScan (Reference.wordsOf s.nwords (s.readV va)))) ∧
    WritesS (.popc sd va) s sd (BitVec.ofNat 64 (Reference.popSum (Reference.wordsOf s.nwords (s.readV va))))

/-- EQ, NE, LT, LE, GT and GE compare the unsigned values; a true result is 1, a false one 0 (43_compare.md R201 to
R206). -/
def Obligations.CompareResults : Prop :=
  ∀ (s : State) (sd : SReg) (va vb : VReg),
    decode (0x30#8 ++ sd ++ va ++ vb ++ 0#12) = .ok (.eq sd va vb) ∧
    decode (0x31#8 ++ sd ++ va ++ vb ++ 0#12) = .ok (.ne sd va vb) ∧
    decode (0x32#8 ++ sd ++ va ++ vb ++ 0#12) = .ok (.lt sd va vb) ∧
    decode (0x33#8 ++ sd ++ va ++ vb ++ 0#12) = .ok (.le sd va vb) ∧
    decode (0x34#8 ++ sd ++ va ++ vb ++ 0#12) = .ok (.gt sd va vb) ∧
    decode (0x35#8 ++ sd ++ va ++ vb ++ 0#12) = .ok (.ge sd va vb) ∧
    WritesS (.eq sd va vb) s sd (if s.readV va = s.readV vb then 1 else 0) ∧
    WritesS (.ne sd va vb) s sd (if s.readV va = s.readV vb then 0 else 1) ∧
    WritesS (.lt sd va vb) s sd (if s.readV va < s.readV vb then 1 else 0) ∧
    WritesS (.le sd va vb) s sd (if s.readV va ≤ s.readV vb then 1 else 0) ∧
    WritesS (.gt sd va vb) s sd (if s.readV vb < s.readV va then 1 else 0) ∧
    WritesS (.ge sd va vb) s sd (if s.readV vb ≤ s.readV va then 1 else 0)

/-- CMP writes -1, 0 or 1 as a 64-bit pattern, by the scan of the words from the most significant down
(43_compare.md R200, R207). -/
def Obligations.ThreeWayCompareResults : Prop :=
  ∀ (s : State) (sd : SReg) (va vb : VReg),
    decode (0x36#8 ++ sd ++ va ++ vb ++ 0#12) = .ok (.cmp sd va vb) ∧
    (s.readV va < s.readV vb → WritesS (.cmp sd va vb) s sd 0xFFFFFFFFFFFFFFFF) ∧
    (s.readV va = s.readV vb → WritesS (.cmp sd va vb) s sd 0) ∧
    (s.readV vb < s.readV va → WritesS (.cmp sd va vb) s sd 1) ∧
    WritesS (.cmp sd va vb) s sd (BitVec.ofInt 64 (Reference.cmpScan
      (Reference.wordsOf s.nwords (s.readV va)) (Reference.wordsOf s.nwords (s.readV vb))))

/-- ISODD, ISEVEN, MIN and MAX (43_compare.md R208 to R211). -/
def Obligations.ParityMinMaxResults : Prop :=
  (∀ (s : State) (sd : SReg) (va : VReg),
    decode (0x37#8 ++ sd ++ va ++ 0#4 ++ 0#12) = .ok (.isodd sd va) ∧
    decode (0x38#8 ++ sd ++ va ++ 0#4 ++ 0#12) = .ok (.iseven sd va) ∧
    WritesS (.isodd sd va) s sd (if s.readV va % 2 = 1 then 1 else 0) ∧
    WritesS (.iseven sd va) s sd (if s.readV va % 2 = 1 then 0 else 1)) ∧
  (∀ (s : State) (vd va vb : VReg),
    decode (0x39#8 ++ vd ++ va ++ vb ++ 0#12) = .ok (.min vd va vb) ∧
    decode (0x3A#8 ++ vd ++ va ++ vb ++ 0#12) = .ok (.max vd va vb) ∧
    WritesV (.min vd va vb) s vd (min (s.readV va) (s.readV vb)) ∧
    WritesV (.max vd va vb) s vd (max (s.readV va) (s.readV vb)))

/-- FROMS: word 0 is the scalar, the other words 0 (44_codec.md R231). -/
def Obligations.FromScalarResult : Prop :=
  ∀ (s : State) (vd : VReg) (sa : SReg),
    decode (0x40#8 ++ vd ++ sa ++ 0#4 ++ 0#12) = .ok (.froms vd sa) ∧
    WritesV (.froms vd sa) s vd (s.readS sa).toNat

/-- FROMW: byte i of the value is the byte at addr + i for the first min(k, N) words, the rest 0; the whole region of
k words must be in range, or BufferRange and nothing written (44_codec.md R232). The bytes used must have been written
(70_reset_and_hazards.md R341; assumption log 5). -/
def Obligations.FromWordsResult : Prop :=
  ∀ (s : State) (vd : VReg) (sa sb : SReg),
    let addr := (s.readS sa).toNat
    let k := (s.readS sb).toNat
    decode (0x41#8 ++ vd ++ sa ++ sb ++ 0#12) = .ok (.fromw vd sa sb) ∧
    (addr + 8 * k ≤ 4096 → (∀ i, i < 8 * min k s.nwords → s.buf.byteAt (addr + i) ≠ none) →
      ∃ t, exec (.fromw vd sa sb) s = .next t ∧ OnlyWritesV vd s t ∧
        (∀ i, i < 8 * min k s.nwords → s.buf.byteAt (addr + i) = some (byteOf (t.readV vd) i)) ∧
        (∀ i, 8 * min k s.nwords ≤ i → byteOf (t.readV vd) i = 0)) ∧
    (¬ addr + 8 * k ≤ 4096 → EndsWithError (.fromw vd sa sb) s .bufferRange)

/-- FROMLE: byte i of the value is the byte at addr + i for the first min(L, 8N) bytes, the rest 0; the whole region
must be in range, or BufferRange and nothing written (44_codec.md R233). The bytes used must have been written (R341;
assumption log 5). -/
def Obligations.FromLittleEndianResult : Prop :=
  ∀ (s : State) (vd : VReg) (sa sb : SReg),
    let addr := (s.readS sa).toNat
    let L := (s.readS sb).toNat
    let m := min L (8 * s.nwords)
    decode (0x42#8 ++ vd ++ sa ++ sb ++ 0#12) = .ok (.fromle vd sa sb) ∧
    (addr + L ≤ 4096 → (∀ i, i < m → s.buf.byteAt (addr + i) ≠ none) →
      ∃ t, exec (.fromle vd sa sb) s = .next t ∧ OnlyWritesV vd s t ∧
        (∀ i, i < m → s.buf.byteAt (addr + i) = some (byteOf (t.readV vd) i)) ∧
        (∀ i, m ≤ i → byteOf (t.readV vd) i = 0)) ∧
    (¬ addr + L ≤ 4096 → EndsWithError (.fromle vd sa sb) s .bufferRange)

/-- FROMBE: byte i of the value is the byte at addr + L - 1 - i for the last min(L, 8N) bytes (BE_OVERLONG =
KEEP_LOW), the rest 0; the whole region must be in range, or BufferRange and nothing written; for L <= 8N the
parameter makes no difference (44_codec.md R234). The bytes used must have been written (R341; assumption log 5). -/
def Obligations.FromBigEndianResult : Prop :=
  ∀ (s : State) (vd : VReg) (sa sb : SReg),
    let addr := (s.readS sa).toNat
    let L := (s.readS sb).toNat
    let m := min L (8 * s.nwords)
    decode (0x43#8 ++ vd ++ sa ++ sb ++ 0#12) = .ok (.frombe vd sa sb) ∧
    (addr + L ≤ 4096 → (∀ i, i < m → s.buf.byteAt (addr + (L - 1 - i)) ≠ none) →
      ∃ t, exec (.frombe vd sa sb) s = .next t ∧ OnlyWritesV vd s t ∧
        (∀ i, i < m → s.buf.byteAt (addr + (L - 1 - i)) = some (byteOf (t.readV vd) i)) ∧
        (∀ i, m ≤ i → byteOf (t.readV vd) i = 0)) ∧
    (¬ addr + L ≤ 4096 → EndsWithError (.frombe vd sa sb) s .bufferRange) ∧
    (L ≤ 8 * s.nwords → ∀ p, fromBigEndian p vd sa sb s = exec (.frombe vd sa sb) s)

/-- TOW, TOLE and TOBE store exactly 8N bytes, least or most significant first; out of range they raise BufferRange
and store nothing (44_codec.md R235 to R237). -/
def Obligations.ExportResults : Prop :=
  ∀ (s : State) (va : VReg) (sb : SReg),
    let addr := (s.readS sb).toNat
    let n := 8 * s.nwords
    let little := (List.range n).map fun i => byteOf (s.readV va) i
    decode (0x44#8 ++ 0#4 ++ va ++ sb ++ 0#12) = .ok (.tow va sb) ∧
    decode (0x45#8 ++ 0#4 ++ va ++ sb ++ 0#12) = .ok (.tole va sb) ∧
    decode (0x46#8 ++ 0#4 ++ va ++ sb ++ 0#12) = .ok (.tobe va sb) ∧
    (addr + n ≤ 4096 →
      StoresBytes (.tow va sb) s addr little none 0 ∧
      StoresBytes (.tole va sb) s addr little none 0 ∧
      StoresBytes (.tobe va sb) s addr little.reverse none 0) ∧
    (¬ addr + n ≤ 4096 →
      EndsWithError (.tow va sb) s .bufferRange ∧
      EndsWithError (.tole va sb) s .bufferRange ∧
      EndsWithError (.tobe va sb) s .bufferRange)

/-- DEC, HEX and PDEC store the numeral, one ASCII byte per character in reading order, and its length in S[sd]; out
of range they raise BufferRange and write nothing (44_codec.md R230, R240 to R242). -/
def Obligations.RenderResults : Prop :=
  ∀ (s : State) (sd : SReg) (va : VReg) (pa : PReg) (sb : SReg),
    let addr := (s.readS sb).toNat
    decode (0x47#8 ++ sd ++ va ++ sb ++ 0#12) = .ok (.dec sd va sb) ∧
    decode (0x48#8 ++ sd ++ va ++ sb ++ 0#12) = .ok (.hex sd va sb) ∧
    decode (0x49#8 ++ sd ++ (0#2 ++ pa) ++ sb ++ 0#12) = .ok (.pdec sd pa sb) ∧
    (addr + (decimalNumeral (s.readV va)).length ≤ 4096 →
      StoresBytes (.dec sd va sb) s addr (decimalNumeral (s.readV va)) (some sd)
        (BitVec.ofNat 64 (decimalNumeral (s.readV va)).length)) ∧
    (¬ addr + (decimalNumeral (s.readV va)).length ≤ 4096 → EndsWithError (.dec sd va sb) s .bufferRange) ∧
    (addr + (hexNumeral (s.readV va)).length ≤ 4096 →
      StoresBytes (.hex sd va sb) s addr (hexNumeral (s.readV va)) (some sd)
        (BitVec.ofNat 64 (hexNumeral (s.readV va)).length)) ∧
    (¬ addr + (hexNumeral (s.readV va)).length ≤ 4096 → EndsWithError (.hex sd va sb) s .bufferRange) ∧
    (addr + (decimalNumeral (s.readP pa)).length ≤ 4096 →
      StoresBytes (.pdec sd pa sb) s addr (decimalNumeral (s.readP pa)) (some sd)
        (BitVec.ofNat 64 (decimalNumeral (s.readP pa)).length)) ∧
    (¬ addr + (decimalNumeral (s.readP pa)).length ≤ 4096 → EndsWithError (.pdec sd pa sb) s .bufferRange)

/-- SLI, SSHI and SMOV (45_scalar.md R270, R271, R274). -/
def Obligations.ScalarResults : Prop :=
  (∀ (s : State) (sd : SReg) (x : Imm16), decode (0x50#8 ++ sd ++ 0#4 ++ x) = .ok (.sli sd x) ∧
    WritesS (.sli sd x) s sd (BitVec.ofNat 64 x.toNat)) ∧
  (∀ (s : State) (sd : SReg) (x : Imm16), decode (0x51#8 ++ sd ++ 0#4 ++ x) = .ok (.sshi sd x) ∧
    WritesS (.sshi sd x) s sd (BitVec.ofNat 64 ((s.readS sd).toNat * 2 ^ 16 + x.toNat))) ∧
  (∀ (s : State) (sd sa : SReg), decode (0x54#8 ++ sd ++ sa ++ 0#4 ++ 0#12) = .ok (.smov sd sa) ∧
    WritesS (.smov sd sa) s sd (s.readS sa))

/-- LDS loads 8 bytes little-endian, STS stores 8; out of range they raise BufferRange and write nothing
(45_scalar.md R272, R273). The bytes LDS loads must have been written (70_reset_and_hazards.md R341). -/
def Obligations.ScalarBufferResults : Prop :=
  (∀ (s : State) (sd sa : SReg),
    let addr := (s.readS sa).toNat
    decode (0x52#8 ++ sd ++ sa ++ 0#4 ++ 0#12) = .ok (.lds sd sa) ∧
    (addr + 8 ≤ 4096 → (∀ i, i < 8 → s.buf.byteAt (addr + i) ≠ none) →
      ∃ t, exec (.lds sd sa) s = .next t ∧ OnlyWritesS sd s t ∧
        ∀ i, i < 8 → s.buf.byteAt (addr + i) = some ((t.readS sd).extractLsb' (8 * i) 8)) ∧
    (¬ addr + 8 ≤ 4096 → EndsWithError (.lds sd sa) s .bufferRange)) ∧
  (∀ (s : State) (sa sb : SReg),
    let addr := (s.readS sa).toNat
    decode (0x53#8 ++ 0#4 ++ sa ++ sb ++ 0#12) = .ok (.sts sa sb) ∧
    (addr + 8 ≤ 4096 → StoresBytes (.sts sa sb) s addr
      ((List.range 8).map fun i => (s.readS sb).extractLsb' (8 * i) 8) none 0) ∧
    (¬ addr + 8 ≤ 4096 → EndsWithError (.sts sa sb) s .bufferRange))

/-! ## Internal algorithms and round trips -/

/-- The binary long division gives quotient and remainder (41_arithmetic.md R123). -/
def Obligations.LongDivComputesQuotientAndRemainder : Prop :=
  ∀ w a b : Nat, a < 2 ^ w → 0 < b → Reference.longDiv w a b = (a / b, a % b)

/-- DivSmall gives quotient and remainder of a word sequence (41_arithmetic.md R126). -/
def Obligations.DivSmallComputesQuotientAndRemainder : Prop :=
  ∀ (d : Nat) (ws : List Nat), 1 ≤ d → d < 2 ^ 32 → (∀ w ∈ ws, w < 2 ^ 64) →
    Reference.valueOf (Reference.divSmall d ws).1 = Reference.valueOf ws / d ∧
    (Reference.divSmall d ws).2 = Reference.valueOf ws % d ∧
    (Reference.divSmall d ws).1.length = ws.length ∧
    ∀ w ∈ (Reference.divSmall d ws).1, w < 2 ^ 64

/-- The decimal renderer, by repeated DivSmall by 10 over k words, gives the base-10 numeral; its length is at most 155
characters at 512 bits, 309 at 1024 and 617 at 2048 (44_codec.md R238). -/
def Obligations.DecStringIsDecimalNumeral : Prop :=
  (∀ (x k : Nat), x < 2 ^ (64 * k) → Reference.decString x k = decimalNumeral x ∧ decString x = decimalNumeral x) ∧
  (∀ x : Nat, x < 2 ^ 512 → (decimalNumeral x).length ≤ 155) ∧
  (∀ x : Nat, x < 2 ^ 1024 → (decimalNumeral x).length ≤ 309) ∧
  (∀ x : Nat, x < 2 ^ 2048 → (decimalNumeral x).length ≤ 617)

/-- The hexadecimal renderer gives "0x" and the base-16 numeral without leading zeros; its length is at most 130
characters at N = 8 and 258 at N = 16 (44_codec.md R239). -/
def Obligations.HexStringIsHexNumeral : Prop :=
  (∀ (n x : Nat), x < 2 ^ (64 * n) → hexString n x = hexNumeral x) ∧
  (∀ x : Nat, x < 2 ^ 512 → (hexString 8 x).length ≤ 130) ∧
  (∀ x : Nat, x < 2 ^ 1024 → (hexString 16 x).length ≤ 258)

/-- Export then construction at the same address gives the value back, for words, little-endian and big-endian bytes;
FROMS then DEC stores the numeral of the scalar (44_codec.md R243). -/
def Obligations.CodecRoundTrips : Prop :=
  (∀ (s : State) (va vd : VReg) (sb sc : SReg), (s.readS sb).toNat + 8 * s.nwords ≤ 4096 →
    ((s.readS sc).toNat = s.nwords → ∃ t u, exec (.tow va sb) s = .next t ∧ exec (.fromw vd sb sc) t = .next u ∧
      u.readV vd = s.readV va) ∧
    ((s.readS sc).toNat = 8 * s.nwords → ∃ t u, exec (.tole va sb) s = .next t ∧ exec (.fromle vd sb sc) t = .next u ∧
      u.readV vd = s.readV va) ∧
    ((s.readS sc).toNat = 8 * s.nwords → ∃ t u, exec (.tobe va sb) s = .next t ∧ exec (.frombe vd sb sc) t = .next u ∧
      u.readV vd = s.readV va)) ∧
  (∀ (s : State) (vd : VReg) (sa sb sd : SReg),
    (s.readS sb).toNat + (decimalNumeral (s.readS sa).toNat).length ≤ 4096 →
    ∃ t u, exec (.froms vd sa) s = .next t ∧ exec (.dec sd vd sb) t = .next u ∧
      ∀ k, k < (decimalNumeral (s.readS sa).toNat).length →
        u.buf.byteAt ((s.readS sb).toNat + k) = (decimalNumeral (s.readS sa).toNat)[k]?)

/-! ## All commands -/

/-- EVERY COMMAND COMPLETES: whatever its operands hold, unless it meets an error of R300 or needs an unwritten byte
(R341), each of the 54 commands goes on, writes no register but its destination and no byte of `BUF` but its output
region, and changes no other state (60_exceptions.md R301, 10_state.md R21, R22, R24). That the bytes an over-long
construction discards need not be written is the model's reading (assumption log 5). -/
def Obligations.EveryCommandCompletesWithinItsFrame : Prop :=
  ∀ (i : Instr) (s : State), Completes i s →
    ∃ t, exec i s = .next t ∧ OnlyWrites i.destV i.destP i.destS (fun a => inRegion a (storedRegion s i)) s t

/-- ERRORS ARE PRECISE: a command that meets an error of R300 takes it and writes nothing else; no command meets two;
and a command that goes on either took an error it met or stayed within its frame (60_exceptions.md R300, R302,
R303). -/
def Obligations.ErrorsArePrecise : Prop :=
  (∀ (i : Instr) (s : State) (e : ErrorCause), Meets i s e → EndsWithError i s e) ∧
  (∀ (i : Instr) (s : State) (e e' : ErrorCause), Meets i s e → Meets i s e' → e = e') ∧
  (∀ (i : Instr) (s t : State), exec i s = .next t →
    (∃ e, Meets i s e ∧ ErrorTaken e (encode i) s t) ∨
    OnlyWrites i.destV i.destP i.destS (fun a => inRegion a (storedRegion s i)) s t)

/-- NO COMMAND IS REFUSED, and a command stops only where it needs a byte of `BUF` that nothing has written since reset
(70_reset_and_hazards.md R341). That it needs only the bytes its result depends on (`usedRegion`), not all of the region
it names, is the model's reading (assumption log 5). -/
def Obligations.CommandsStopOnlyOnUnwrittenBytes : Prop :=
  (∀ (i : Instr) (s : State) (r : Refusal), exec i s ≠ .refused r) ∧
  (∀ (i : Instr) (s : State) (f : Fault), exec i s = .fault f →
    f = .unwrittenByte ∧ regionOk (namedRegion s i) ∧ ¬ regionWritten s (usedRegion s i) ∧
      i.mnemonic ∈ ([.fromw, .fromle, .frombe, .lds] : List Mnemonic))

/-- WHICH COMMANDS WRITE WHICH FILE: the lists of 10_state.md R21 (V), R22 (P) and R24 (S), and of R26 (`BUF`). -/
def Obligations.OnlyListedCommandsWriteEachFile : Prop :=
  ∀ (i : Instr) (s t : State), exec i s = .next t →
    (i.mnemonic ∉ ([.mov, .zero, .one, .maxv, .add, .sub, .div, .mod, .plo, .phi, .and, .or, .xor, .not, .shl, .shr,
        .shli, .shri, .setbit, .clrbit, .flipbit, .min, .max, .froms, .fromw, .fromle, .frombe] : List Mnemonic) →
      ∀ r, t.readV r = s.readV r) ∧
    (i.mnemonic ≠ .mul → ∀ r, t.readP r = s.readP r) ∧
    (i.mnemonic ∉ ([.pisz, .bit, .clz, .ctz, .popc, .eq, .ne, .lt, .le, .gt, .ge, .cmp, .isodd, .iseven, .dec, .hex,
        .pdec, .sli, .sshi, .lds, .smov] : List Mnemonic) →
      ∀ r, t.readS r = s.readS r) ∧
    (i.mnemonic ∉ ([.tow, .tole, .tobe, .dec, .hex, .pdec, .sts] : List Mnemonic) →
      ∀ a, t.buf.byteAt a = s.buf.byteAt a)

/-- A RESULT DEPENDS ONLY ON THE OPERANDS AND BYTES READ: in two states of one instance that agree on the registers a
command reads and on the `BUF` bytes its result depends on, it completes alike and writes the same register and the same
bytes to the same region (10_state.md R21, R22, R24; 30_encoding.md R80). So a program that writes what it reads does not
depend on what reset left (70_reset_and_hazards.md R341, R343). That the bytes an over-long construction discards are
neither needed nor read is the model's reading (assumption log 5). -/
def Obligations.ResultDependsOnlyOnSources : Prop :=
  ∀ (i : Instr) (s s' : State), s.inst = s'.inst →
    (∀ r ∈ i.srcV, s.readV r = s'.readV r) → (∀ r ∈ i.srcP, s.readP r = s'.readP r) →
    (∀ r ∈ i.srcS, s.readS r = s'.readS r) →
    (∀ a, inRegion a (usedRegion s i) → s.buf.byteAt a = s'.buf.byteAt a) → Completes i s →
    storedRegion s' i = storedRegion s i ∧
    ∃ t t', exec i s = .next t ∧ exec i s' = .next t' ∧
      (∀ r, i.destV = some r → t.readV r = t'.readV r) ∧ (∀ r, i.destP = some r → t.readP r = t'.readP r) ∧
      (∀ r, i.destS = some r → t.readS r = t'.readS r) ∧
      (∀ a, inRegion a (storedRegion s i) → t.buf.byteAt a = t'.buf.byteAt a)

/-! ## The step. The turns, the host's list of accesses and what its reads returned are the model's own fields
(assumption log 2). -/

/-- A STEP RUNS THE DECODED COMMAND: while BUSY with a command word that decodes to i, the engine's step is exec of i at
the state with the turn taken, and then BUSY <- 0 (30_encoding.md R79, 20_memory.md R52, R53). -/
def Obligations.StepRunsDecodedCommand : Prop :=
  ∀ (s : State) (c : Word32) (i : Instr), s.phase = .busy c → s.turn = .engine → decode c = .ok i →
    step s = match exec i s.takeTurn with
      | .next t => .next { t with phase := .idle }
      | .fault f => .fault f
      | .refused r => .refused r

/-- A loaded command word is what the next step runs, whatever the state (assumption log 6; the model's form of the
acceptance of 20_memory.md R52). -/
def Obligations.LoadedCommandRunsNext : Prop :=
  ∀ (s : State) (i : Instr), step (s.withFetchWord 32 (encode i).toNat) =
    completeResult (exec i ({ s with err := false }.accept (encode i)))

/-- The engine's error: when an accepted command meets an error, the step leaves the cause, the accepted word and
ERR = 1, BUSY = 0, and nothing else changed (60_exceptions.md R304, R303). -/
def Obligations.StepRecordsError : Prop :=
  ∀ (s : State) (c : Word32) (i : Instr) (e : ErrorCause), s.phase = .busy c → s.turn = .engine → decode c = .ok i →
    Meets i s e → ∃ t, step s = .next t ∧ t.isBusy = false ∧ ErrorTaken e c s.takeTurn.complete t

/-- A host write of CMD performed with BUSY = 0: with ERR = 0 the command is accepted, BUSY <- 1 and CMDCOUNT + 1
modulo 2^32, with ERR = 1 it is discarded and DROP <- 1; nothing else changes (20_memory.md R52, 60_exceptions.md
R306, 10_state.md R36). -/
def Obligations.CommandWriteAcceptsOrDiscards : Prop :=
  ∀ (s : State) (c : Word32) (rest : List HostAccess), HostTurnIdle s → s.pending = .write 0x00C .word c :: rest →
    (s.err = false → step s = .next { s.afterHost with phase := .busy c, cmdcount := s.cmdcount + 1 }) ∧
    (s.err = true → step s = .next { s.afterHost with drop := true })

/-- A host write of STATUS, performed at once even while BUSY: bit 1 clears ERR, bit 2 clears DROP, nothing else
changes (10_state.md R33, 60_exceptions.md R307, 20_memory.md R51). -/
def Obligations.StatusWriteClears : Prop :=
  ∀ (s : State) (d : Word32) (rest : List HostAccess), s.turn = .host → s.pending = .write 0x010 .word d :: rest →
    step s = .next { s.afterHost with
      err := s.err && !d.getLsbD 1
      drop := s.drop && !d.getLsbD 2 }

/-- BUSY HOLD: while BUSY, a host turn performs at once a read of ID, CONFIG, BUFSIZE or STATUS, which returns that
register's word (STATUS with BUSY = 1), and a write of STATUS; the command stays in execution. Every other access waits
until the command is completed (20_memory.md R51, 10_state.md R30 to R33, 70_reset_and_hazards.md R345). Two points are
the model's choice: the host turn on a held access is the engine's step (assumption log 15), and an access that is a host
bus error is held like any other (assumption log 7). -/
def Obligations.BusyHoldsHostAccesses : Prop :=
  ∀ (s : State) (c : Word32) (a : HostAccess) (rest : List HostAccess), s.phase = .busy c → s.turn = .host →
    s.pending = a :: rest →
    (∀ o, a = .read o .word → o ∈ ([0x000, 0x004, 0x008, 0x010] : List HostOffset) →
      ∃ v : Word32, step s = .next { s.afterHost with returned := s.returned ++ [v] } ∧
        (o = 0x000 → v = 0x4755494E) ∧
        (o = 0x004 → v = 0x10041000 + BitVec.ofNat 32 s.nwords) ∧
        (o = 0x008 → v = 0x00001000) ∧
        (o = 0x010 → v.getLsbD 0 = true ∧ v.getLsbD 1 = s.err ∧ v.getLsbD 2 = s.drop ∧ v.extractLsb' 3 29 = 0)) ∧
    (∀ d, a = .write 0x010 .word d →
      step s = .next { s.afterHost with err := s.err && !d.getLsbD 1, drop := s.drop && !d.getLsbD 2 }) ∧
    (¬ PerformedAtOnce a →
      step s = engineMoves c s.takeTurn ∧ ∀ t, step s = .next t → t.phase = .idle ∧ t.pending = a :: rest)

/-- What the eight control registers and the reserved offsets return; a read has no side effect (10_state.md R28 to
R36, 20_memory.md R42, R45). -/
def Obligations.ControlReadsReturn : Prop :=
  ∀ (s : State) (o : HostOffset) (rest : List HostAccess), HostTurnIdle s → s.pending = .read o .word :: rest →
    o.toNat % 4 = 0 → o.toNat < 0x1000 →
    ∃ v : Word32, step s = .next { s.afterHost with returned := s.returned ++ [v] } ∧
      (o = 0x000 → v = 0x4755494E) ∧
      (o = 0x004 → v = 0x10041000 + BitVec.ofNat 32 s.nwords) ∧
      (o = 0x008 → v = 0x00001000) ∧
      (o = 0x00C → v = 0) ∧
      (o = 0x010 → v.getLsbD 0 = s.isBusy ∧ v.getLsbD 1 = s.err ∧ v.getLsbD 2 = s.drop ∧ v.extractLsb' 3 29 = 0) ∧
      (o = 0x014 → (s.errcause = none → v = 0) ∧ (s.errcause = some .divisionByZero → v = 1) ∧
        (s.errcause = some .illegalCommand → v = 2) ∧ (s.errcause = some .bufferRange → v = 3)) ∧
      (o = 0x018 → v = s.errcmd) ∧
      (o = 0x01C → v = s.cmdcount) ∧
      (0x020 ≤ o.toNat → v = 0)

/-- Writes that are ignored: of the read-only registers and of the reserved offsets (10_state.md R28, 20_memory.md R42,
R45). -/
def Obligations.ReadOnlyWritesIgnored : Prop :=
  ∀ (s : State) (o : HostOffset) (d : Word32) (rest : List HostAccess), HostTurnIdle s →
    s.pending = .write o .word d :: rest → o.toNat % 4 = 0 → o.toNat < 0x1000 → o ≠ 0x00C → o ≠ 0x010 →
    step s = .next s.afterHost

/-- The window: an aligned read of 1, 2 or 4 written bytes returns them little-endian and changes nothing; an aligned
write stores its bytes little-endian and no other byte, register or field (20_memory.md R44). That a narrow read is
zero-extended to the 32 bits returned, and that a narrow write takes the low bits of its 32-bit datum, is the model's
choice (assumption log 14). -/
def Obligations.WindowAccesses : Prop :=
  (∀ (s : State) (o : HostOffset) (w : AccessWidth) (rest : List HostAccess), HostTurnIdle s →
    s.pending = .read o w :: rest → o.toNat % w.bytes = 0 → 0x1000 ≤ o.toNat →
    (∀ k, k < w.bytes → s.buf.byteAt (o.toNat - 0x1000 + k) ≠ none) →
    ∃ v : Word32, step s = .next { s.afterHost with returned := s.returned ++ [v] } ∧ v.toNat < 256 ^ w.bytes ∧
      ∀ k, k < w.bytes → s.buf.byteAt (o.toNat - 0x1000 + k) = some (v.extractLsb' (8 * k) 8)) ∧
  (∀ (s : State) (o : HostOffset) (w : AccessWidth) (d : Word32) (rest : List HostAccess), HostTurnIdle s →
    s.pending = .write o w d :: rest → o.toNat % w.bytes = 0 → 0x1000 ≤ o.toNat →
    ∃ m : Memory, step s = .next { s.afterHost with buf := m } ∧
      (∀ k, k < w.bytes → m.byteAt (o.toNat - 0x1000 + k) = some (d.extractLsb' (8 * k) 8)) ∧
      ∀ a, ¬ (o.toNat - 0x1000 ≤ a ∧ a < o.toNat - 0x1000 + w.bytes) → m.byteAt a = s.buf.byteAt a)

/-- A misaligned access, and an access below 0x1000 that is not 4 bytes wide, is refused: a host bus error
(20_memory.md R43); it is refused in no other case. -/
def Obligations.BadHostAccessRefused : Prop :=
  (∀ (s : State) (a : HostAccess) (rest : List HostAccess), HostTurnIdle s → s.pending = a :: rest → BusError a →
    step s = .refused .hostBusError) ∧
  (∀ (s : State) (r : Refusal), step s = .refused r →
    r = .hostBusError ∧ ∃ a rest, s.pending = a :: rest ∧ BusError a)

/-- With the host's accesses done and BUSY = 0 the block is idle and keeps all state (20_memory.md R54, 60_exceptions.md
R317). -/
def Obligations.IdleBlockKeepsState : Prop :=
  ∀ s : State, HostTurnIdle s → s.pending = [] → step s = .next s.takeTurn

/-- RESET: after reset of either instance the control state is 0, the engine is idle and no `BUF` byte is written; the
platform's reset, at any step and whatever the engine is doing, leaves such a state of the same instance, whatever the
unspecified registers hold (70_reset_and_hazards.md R340 to R342). -/
def Obligations.ResetLeavesControlState : Prop :=
  (∀ inst : Instance, (State.resetFor inst).AfterReset ∧ (State.resetFor inst).inst = inst ∧
    (State.resetFor inst).statusWord = 0) ∧
  (∀ (s : State) (fate : HeldFate), s.turn = .reset fate →
    ∃ t, step s = .next t ∧ t.AfterReset ∧ t.inst = s.inst ∧ t.statusWord = 0)

/-- RESET AND THE HOST'S ACCESSES: the platform's reset settles an access only if the engine is BUSY and 20_memory.md
R51 holds it; then the access is not issued yet, aborted, or completed, a read with any value
(70_reset_and_hazards.md R342, 93_implementation_defined.md I5). Every other access stays with the host, and what its
reads returned stays as it was. The list of accesses is the model's own (assumption log 2), and so are that an access
which is not held is performed after the reset, and that a held host bus error is not completed by it (assumption
log 3). -/
def Obligations.ResetSettlesOnlyHeldAccesses : Prop :=
  ∀ (s : State) (fate : HeldFate), s.turn = .reset fate → ∃ t, step s = .next t ∧
    ((s.isBusy = false ∨ s.pending = [] ∨ ∃ a rest, s.pending = a :: rest ∧ PerformedAtOnce a) →
      t.pending = s.pending ∧ t.returned = s.returned) ∧
    (∀ a rest, s.isBusy = true → s.pending = a :: rest → ¬ PerformedAtOnce a →
      (fate = .notHeld → t.pending = s.pending ∧ t.returned = s.returned) ∧
      (fate = .aborted → t.pending = rest ∧ t.returned = s.returned) ∧
      (∀ v, fate = .completed v →
        (BusError a → t.pending = s.pending ∧ t.returned = s.returned) ∧
        (¬ BusError a → t.pending = rest ∧
          (∀ o w, a = .read o w → t.returned = s.returned ++ [v]) ∧
          (∀ o w d, a = .write o w d → t.returned = s.returned))))

/-- No step changes the instance: N is fixed when the block is built (00_scope.md R6). -/
def Obligations.InstanceIsFixed : Prop := ∀ s t : State, step s = .next t → t.inst = s.inst

/-- CMDCOUNT counts accepted commands: outside a reset, a step adds 1 modulo 2^32 exactly when it performs a write of
CMD with BUSY = 0 and ERR = 0 (10_state.md R36). -/
def Obligations.CmdcountCountsAcceptedCommands : Prop :=
  ∀ s t : State, (∀ fate, s.turn ≠ .reset fate) → step s = .next t →
    ((∃ c rest, s.phase = .idle ∧ s.err = false ∧ s.pending = .write 0x00C .word c :: rest) →
      t.cmdcount = s.cmdcount + 1) ∧
    (¬ (∃ c rest, s.phase = .idle ∧ s.err = false ∧ s.pending = .write 0x00C .word c :: rest) →
      t.cmdcount = s.cmdcount)

/-- ERRCAUSE and ERRCMD are written only at error entry: outside a reset they change only in the step that ends an
accepted command with an error, which sets ERR and records that command (10_state.md R34, R35; 60_exceptions.md
R308). -/
def Obligations.ErrorRecordWrittenOnlyAtErrorEntry : Prop :=
  ∀ s t : State, (∀ fate, s.turn ≠ .reset fate) → step s = .next t →
    (t.errcause = s.errcause ∧ t.errcmd = s.errcmd) ∨
    (∃ c, s.phase = .busy c ∧ t.phase = .idle ∧ t.err = true ∧ t.errcmd = c ∧ t.errcause ≠ none)

/-- THE INVARIANT IS KEPT: `BUF` in canonical form inside its 4096 bytes; no command in execution while an error is
pending; ERR and DROP only with a cause recorded; ERRCMD 0 until the first error; and the recorded command one that can
raise the recorded cause (State.Inv). Whatever the state, the agent that moves and the host's access. -/
def Obligations.InvariantKeptByEveryStep : Prop := ∀ s t : State, s.Inv → step s = .next t → t.Inv

/-- Either instance after reset meets the invariant. -/
def Obligations.InvariantAtReset : Prop := (∀ inst : Instance, (State.resetFor inst).Inv) ∧ State.reset.Inv

/-- BUSY ENDS: from a state with a command in execution and no reset scheduled, within one step more than the schedule
is long, BUSY is 0, unless the command stops on an unwritten byte (70_reset_and_hazards.md R352, 20_memory.md R53). -/
def Obligations.BusyEnds : Prop :=
  ∀ s : State, s.isBusy = true → (∀ fate, Turn.reset fate ∉ s.schedule) →
    ∃ k, k ≤ s.schedule.length + 1 ∧
      ((∃ t, Sys2Proof.core.run k s = .next t ∧ t.isBusy = false) ∨
        Sys2Proof.core.run k s = .fault .unwrittenByte)
end

