-- ==== Sys2Proof/Laws/Encoding.lean ====
section
/-! SUPPORT. The fields of a word the encoder lays out, one lemma per field. -/

namespace Sys2Proof

open BitVec

variable (m : Mnemonic) (d a b : BitVec 4) (x : Imm16)

@[simp] theorem opByte_slotsWord : opByte (slotsWord m d a b) = m.opcode := by
  unfold opByte slotsWord
  rw [extractLsb'_append_eq_of_le (by decide), extractLsb'_append_eq_of_le (by decide), extractLsb'_append_eq_of_le (by decide)]
  exact extractLsb'_append_eq_left

@[simp] theorem slotD_slotsWord : slotD (slotsWord m d a b) = d := by
  unfold slotD slotsWord
  rw [extractLsb'_append_eq_of_le (by decide), extractLsb'_append_eq_of_le (by decide), extractLsb'_append_eq_of_le (by decide)]
  exact extractLsb'_append_eq_right

@[simp] theorem slotA_slotsWord : slotA (slotsWord m d a b) = a := by
  unfold slotA slotsWord
  rw [extractLsb'_append_eq_of_le (by decide), extractLsb'_append_eq_of_le (by decide)]
  exact extractLsb'_append_eq_right

@[simp] theorem slotB_slotsWord : slotB (slotsWord m d a b) = b := by
  unfold slotB slotsWord
  rw [extractLsb'_append_eq_of_le (by decide)]
  exact extractLsb'_append_eq_right

@[simp] theorem lowBits_slotsWord : lowBits (slotsWord m d a b) = 0 := extractLsb'_append_eq_right

@[simp] theorem opByte_immWord : opByte (immWord m d a x) = m.opcode := by
  unfold opByte immWord
  rw [extractLsb'_append_eq_of_le (by decide), extractLsb'_append_eq_of_le (by decide)]
  exact extractLsb'_append_eq_left

@[simp] theorem slotD_immWord : slotD (immWord m d a x) = d := by
  unfold slotD immWord
  rw [extractLsb'_append_eq_of_le (by decide), extractLsb'_append_eq_of_le (by decide)]
  exact extractLsb'_append_eq_right

@[simp] theorem slotA_immWord : slotA (immWord m d a x) = a := by
  unfold slotA immWord
  rw [extractLsb'_append_eq_of_le (by decide)]
  exact extractLsb'_append_eq_right

@[simp] theorem immField_immWord : immField (immWord m d a x) = x := extractLsb'_append_eq_right

/-- A wide index laid in its slot is read back. -/
@[simp] theorem wideIndex_wideSlot (p : PReg) (k : PReg → Except Illegal Instr) : wideIndex (wideSlot p) k = k p := by
  have h1 : (wideSlot p).extractLsb' 2 2 = 0#2 := extractLsb'_append_eq_left
  have h2 : (wideSlot p).extractLsb' 0 2 = p := extractLsb'_append_eq_right
  unfold wideIndex
  rw [if_pos h1, h2]

/-- The opcode byte of a mnemonic selects it. -/
theorem mnemonicOf_opcode : mnemonicOf m.opcode = some m := by
  cases m <;> rfl

end Sys2Proof
end

