-- ==== Sys2Proof/Laws/Memory.lean ====
section
/-! SUPPORT. The laws of `BUF`: read after write, and that every write keeps the canonical form. -/

namespace Sys2Proof.Machine

@[simp] theorem byteAt_nil (k : Nat) : Memory.byteAt [] k = none := rfl

theorem byteAt_cons (a : Nat) (b : Byte) (m : Memory) (k : Nat) :
    Memory.byteAt ((a, b) :: m) k = if a = k then some b else m.byteAt k := rfl

/-- A lookup in two parts: the first part that lists the address decides. -/
theorem byteAt_append (m m' : Memory) (k : Nat) :
    Memory.byteAt (m ++ m') k = (m.byteAt k).or (m'.byteAt k) := by
  induction m with
  | nil => simp
  | cons c m ih =>
    obtain ⟨a, b⟩ := c
    simp only [List.cons_append, byteAt_cons, ih]
    split <;> simp

/-- Keeping the cells whose address passes a test. -/
theorem byteAt_filter (p : Nat → Bool) (m : Memory) (k : Nat) :
    Memory.byteAt (m.filter fun c => p c.1) k = if p k then m.byteAt k else none := by
  induction m with
  | nil => simp
  | cons c m ih =>
    obtain ⟨a, b⟩ := c
    by_cases hak : a = k
    · subst hak
      by_cases hp : p a <;> simp [hp, byteAt_cons, ih]
    · by_cases hp : p a <;> simp [hp, byteAt_cons, ih, hak]

/-- The cells of a sequence laid out from `a`: byte k - a at address k. -/
theorem byteAt_cellsFrom (a : Nat) (bs : List Byte) (k : Nat) :
    Memory.byteAt (cellsFrom a bs) k = if a ≤ k then bs[k - a]? else none := by
  induction bs generalizing a with
  | nil => simp [cellsFrom]
  | cons b bs ih =>
    simp only [cellsFrom, byteAt_cons, ih]
    rcases Nat.lt_trichotomy a k with h | h | h
    · have h1 : k - a = (k - (a + 1)) + 1 := by omega
      have h2 : a ≠ k := by omega
      have h3 : a + 1 ≤ k := h
      have h4 : a ≤ k := by omega
      simp [h1, h2, h3, h4]
    · simp [h]
    · have h1 : a ≠ k := by omega
      have h2 : ¬ a + 1 ≤ k := by omega
      have h3 : ¬ a ≤ k := by omega
      simp [h1, h2, h3]

/-- READ AFTER WRITE: inside the written region the written byte, outside it what was there. -/
theorem byteAt_setBytes (m : Memory) (a : Nat) (bs : List Byte) (k : Nat) :
    (m.setBytes a bs).byteAt k = if a ≤ k ∧ k < a + bs.length then bs[k - a]? else m.byteAt k := by
  have hlo := byteAt_filter (fun x => decide (x < a)) m k
  have hhi := byteAt_filter (fun x => decide (a + bs.length ≤ x)) m k
  simp only [Memory.setBytes, byteAt_append, byteAt_cellsFrom, hlo, hhi]
  by_cases h1 : k < a
  · have h2 : ¬ a ≤ k := by omega
    have h3 : ¬ a + bs.length ≤ k := by omega
    simp [h1, h2, h3]
  · have h2 : a ≤ k := by omega
    by_cases h3 : k < a + bs.length
    · have h4 : k - a < bs.length := by omega
      simp [h1, h2, h3, List.getElem?_eq_getElem h4]
    · have h4 : bs.length ≤ k - a := by omega
      have h5 : a + bs.length ≤ k := by omega
      simp [h1, h2, h3, h5, List.getElem?_eq_none h4]

theorem byteAt_setBytes_outside {m : Memory} {a : Nat} {bs : List Byte} {k : Nat}
    (h : ¬ (a ≤ k ∧ k < a + bs.length)) : (m.setBytes a bs).byteAt k = m.byteAt k := by
  rw [byteAt_setBytes, if_neg h]

/-- The bytes of a region, as one lookup each. -/
theorem bytesAt_eq_some {m : Memory} {a n : Nat} {bs : List Byte} :
    m.bytesAt a n = some bs ↔ bs.length = n ∧ ∀ k, k < n → m.byteAt (a + k) = bs[k]? := by
  induction n generalizing a bs with
  | zero => cases bs <;> simp [Memory.bytesAt]
  | succ n ih =>
    constructor
    · intro h
      simp only [Memory.bytesAt] at h
      split at h
      · rename_i b bs' hb hbs
        cases h
        obtain ⟨hlen, hk⟩ := ih.1 hbs
        refine ⟨by simp [hlen], fun k hkn => ?_⟩
        cases k with
        | zero => simpa using hb
        | succ k => simpa [Nat.add_assoc, Nat.add_comm 1] using hk k (by omega)
      · cases h
    · rintro ⟨hlen, hk⟩
      cases bs with
      | nil => simp at hlen
      | cons b bs =>
        have h0 : m.byteAt a = some b := by simpa using hk 0 (by omega)
        have h1 : m.bytesAt (a + 1) n = some bs := by
          refine ih.2 ⟨by simpa using hlen, fun k hkn => ?_⟩
          have := hk (k + 1) (by omega)
          simpa [Nat.add_assoc, Nat.add_comm 1] using this
        simp [Memory.bytesAt, h0, h1]

theorem bytesAt_length {m : Memory} {a n : Nat} {bs : List Byte} (h : m.bytesAt a n = some bs) : bs.length = n :=
  (bytesAt_eq_some.1 h).1

/-- A region can be read exactly when each of its bytes has been written. -/
theorem bytesAt_isSome (m : Memory) (a n : Nat) :
    (∃ bs, m.bytesAt a n = some bs) ↔ ∀ k, k < n → m.byteAt (a + k) ≠ none := by
  constructor
  · rintro ⟨bs, h⟩ k hk
    obtain ⟨hlen, hb⟩ := bytesAt_eq_some.1 h
    have h4 : k < bs.length := by omega
    simp [hb k hk, List.getElem?_eq_getElem h4]
  · induction n generalizing a with
    | zero => exact fun _ => ⟨[], rfl⟩
    | succ n ih =>
      intro h
      obtain ⟨bs, hbs⟩ := ih (a + 1) fun k hk => by
        have := h (k + 1) (by omega)
        simpa [Nat.add_assoc, Nat.add_comm 1] using this
      obtain ⟨b, hb⟩ := Option.ne_none_iff_exists'.1 (h 0 (by omega))
      exact ⟨b :: bs, by simp at hb; simp [Memory.bytesAt, hb, hbs]⟩

/-- A region just written reads as the bytes written. -/
theorem bytesAt_setBytes_same (m : Memory) (a : Nat) (bs : List Byte) :
    (m.setBytes a bs).bytesAt a bs.length = some bs := by
  refine bytesAt_eq_some.2 ⟨rfl, fun k hk => ?_⟩
  rw [byteAt_setBytes, if_pos ⟨by omega, by omega⟩]
  congr 1
  omega

theorem risingFrom_mono {m : Memory} {lo lo' : Nat} (hle : lo' ≤ lo) (h : Memory.risingFrom lo m = true) :
    Memory.risingFrom lo' m = true := by
  cases m with
  | nil => rfl
  | cons c m =>
    obtain ⟨k, b⟩ := c
    simp only [Memory.risingFrom, Bool.and_eq_true, decide_eq_true_eq] at h ⊢
    exact ⟨⟨by omega, h.1.2⟩, h.2⟩

/-- Cells below `a`, then cells from `a` up: still rising. -/
theorem risingFrom_append_filter {m m' : Memory} {lo a : Nat} (h : Memory.risingFrom lo m = true) (hlo : lo ≤ a)
    (h' : Memory.risingFrom a m' = true) :
    Memory.risingFrom lo (m.filter (fun c => c.1 < a) ++ m') = true := by
  induction m generalizing lo with
  | nil => simpa using risingFrom_mono hlo h'
  | cons c m ih =>
    obtain ⟨k, b⟩ := c
    simp only [Memory.risingFrom, Bool.and_eq_true, decide_eq_true_eq] at h
    by_cases hk : k < a
    · simp only [List.filter_cons, hk, decide_true, if_true, List.cons_append, Memory.risingFrom, Bool.and_eq_true,
        decide_eq_true_eq]
      exact ⟨h.1, ih h.2 (by omega)⟩
    · simp only [List.filter_cons, hk, decide_false, if_neg Bool.false_ne_true]
      exact ih (risingFrom_mono (by omega) h.2) (by omega)

theorem risingFrom_filter_above {m : Memory} {lo a : Nat} (h : Memory.risingFrom lo m = true) :
    Memory.risingFrom a (m.filter (fun c => a ≤ c.1)) = true := by
  induction m generalizing lo a with
  | nil => rfl
  | cons c m ih =>
    obtain ⟨k, b⟩ := c
    simp only [Memory.risingFrom, Bool.and_eq_true, decide_eq_true_eq] at h
    by_cases hk : a ≤ k
    · have hall : m.filter (fun c => decide (a ≤ c.1)) = m.filter (fun c => decide (k + 1 ≤ c.1)) := by
        have : ∀ (m : Memory) (lo : Nat), Memory.risingFrom lo m = true → ∀ c ∈ m, lo ≤ c.1 := by
          intro m
          induction m with
          | nil => simp
          | cons d m ihm =>
            obtain ⟨j, e⟩ := d
            intro lo hr c hc
            simp only [Memory.risingFrom, Bool.and_eq_true, decide_eq_true_eq] at hr
            rcases List.mem_cons.1 hc with rfl | hc
            · exact hr.1.1
            · exact le_trans (by omega) (ihm (j + 1) hr.2 c hc)
        refine List.filter_congr fun c hc => ?_
        have := this m (k + 1) h.2 c hc
        simp only [decide_eq_decide]
        omega
      simp only [List.filter_cons, hk, decide_true, if_true, Memory.risingFrom, Bool.and_eq_true, decide_eq_true_eq]
      refine ⟨⟨trivial, h.1.2⟩, ?_⟩
      rw [hall]
      exact ih h.2
    · simp only [List.filter_cons, hk, decide_false, if_neg Bool.false_ne_true]
      exact ih h.2

theorem risingFrom_cells {m : Memory} {a : Nat} {bs : List Byte} (h : a + bs.length ≤ 4096)
    (hm : Memory.risingFrom (a + bs.length) m = true) : Memory.risingFrom a (cellsFrom a bs ++ m) = true := by
  induction bs generalizing a with
  | nil => simpa [cellsFrom] using hm
  | cons b bs ih =>
    simp only [List.length_cons] at h hm
    simp only [cellsFrom, List.cons_append, Memory.risingFrom, Bool.and_eq_true, decide_eq_true_eq]
    refine ⟨⟨le_refl a, ?_⟩, ih (by omega) ?_⟩
    · show a < 4096
      omega
    · rw [show a + 1 + bs.length = a + (bs.length + 1) by omega]
      exact hm

/-- THE CANONICAL FORM IS KEPT by every write inside `BUF`. -/
theorem setBytes_wf {m : Memory} {a : Nat} {bs : List Byte} (hm : m.wf = true) (h : a + bs.length ≤ 4096) :
    (m.setBytes a bs).wf = true := by
  unfold Memory.wf Memory.setBytes
  rw [List.append_assoc]
  exact risingFrom_append_filter hm (Nat.zero_le a) (risingFrom_cells h (risingFrom_filter_above hm))

/-! ## Byte sequences -/

@[simp] theorem bytesOfNat_length (n x : Nat) : (bytesOfNat n x).length = n := by
  induction n generalizing x with
  | zero => rfl
  | succ n ih => simp [bytesOfNat, ih]

/-- Laid out and composed again, a natural loses what lies above its n bytes. -/
theorem natOfBytes_bytesOfNat (n x : Nat) : natOfBytes (bytesOfNat n x) = x % 256 ^ n := by
  induction n generalizing x with
  | zero => simp [bytesOfNat, natOfBytes, Nat.mod_one]
  | succ n ih =>
    simp only [bytesOfNat, natOfBytes, ih, BitVec.toNat_ofNat]
    rw [show 256 ^ (n + 1) = 256 * 256 ^ n from by rw [Nat.pow_succ, Nat.mul_comm], Nat.mod_mul]

theorem natOfBytes_lt (bs : List Byte) : natOfBytes bs < 256 ^ bs.length := by
  induction bs with
  | nil => simp [natOfBytes]
  | cons b bs ih =>
    have := b.isLt
    simp only [natOfBytes, List.length_cons, pow_succ]
    omega

end Sys2Proof.Machine
end

