-- ==== Sys2Proof/Laws/State.lean ====
section
/-! SUPPORT. One lemma per field per update of the state, true by rfl, so that no later proof unfolds a record update. -/

namespace Sys2Proof.Machine

variable (s : State)

@[simp] theorem writeV_files (r : VReg) (x : Nat) : (s.writeV r x).files = s.files.writeV r x := rfl
@[simp] theorem writeV_scalars (r : VReg) (x : Nat) : (s.writeV r x).scalars = s.scalars := rfl
@[simp] theorem writeV_buf (r : VReg) (x : Nat) : (s.writeV r x).buf = s.buf := rfl
@[simp] theorem writeV_phase (r : VReg) (x : Nat) : (s.writeV r x).phase = s.phase := rfl
@[simp] theorem writeV_err (r : VReg) (x : Nat) : (s.writeV r x).err = s.err := rfl
@[simp] theorem writeV_drop (r : VReg) (x : Nat) : (s.writeV r x).drop = s.drop := rfl
@[simp] theorem writeV_errcause (r : VReg) (x : Nat) : (s.writeV r x).errcause = s.errcause := rfl
@[simp] theorem writeV_errcmd (r : VReg) (x : Nat) : (s.writeV r x).errcmd = s.errcmd := rfl
@[simp] theorem writeV_cmdcount (r : VReg) (x : Nat) : (s.writeV r x).cmdcount = s.cmdcount := rfl
@[simp] theorem writeV_pending (r : VReg) (x : Nat) : (s.writeV r x).pending = s.pending := rfl
@[simp] theorem writeV_returned (r : VReg) (x : Nat) : (s.writeV r x).returned = s.returned := rfl
@[simp] theorem writeV_schedule (r : VReg) (x : Nat) : (s.writeV r x).schedule = s.schedule := rfl
@[simp] theorem writeV_resets (r : VReg) (x : Nat) : (s.writeV r x).resets = s.resets := rfl

@[simp] theorem writeP_files (r : PReg) (x : Nat) : (s.writeP r x).files = s.files.writeP r x := rfl
@[simp] theorem writeP_scalars (r : PReg) (x : Nat) : (s.writeP r x).scalars = s.scalars := rfl
@[simp] theorem writeP_buf (r : PReg) (x : Nat) : (s.writeP r x).buf = s.buf := rfl
@[simp] theorem writeP_phase (r : PReg) (x : Nat) : (s.writeP r x).phase = s.phase := rfl
@[simp] theorem writeP_err (r : PReg) (x : Nat) : (s.writeP r x).err = s.err := rfl
@[simp] theorem writeP_drop (r : PReg) (x : Nat) : (s.writeP r x).drop = s.drop := rfl
@[simp] theorem writeP_errcause (r : PReg) (x : Nat) : (s.writeP r x).errcause = s.errcause := rfl
@[simp] theorem writeP_errcmd (r : PReg) (x : Nat) : (s.writeP r x).errcmd = s.errcmd := rfl
@[simp] theorem writeP_cmdcount (r : PReg) (x : Nat) : (s.writeP r x).cmdcount = s.cmdcount := rfl
@[simp] theorem writeP_pending (r : PReg) (x : Nat) : (s.writeP r x).pending = s.pending := rfl
@[simp] theorem writeP_returned (r : PReg) (x : Nat) : (s.writeP r x).returned = s.returned := rfl
@[simp] theorem writeP_schedule (r : PReg) (x : Nat) : (s.writeP r x).schedule = s.schedule := rfl
@[simp] theorem writeP_resets (r : PReg) (x : Nat) : (s.writeP r x).resets = s.resets := rfl

@[simp] theorem writeS_files (r : SReg) (x : Scalar) : (s.writeS r x).files = s.files := rfl
@[simp] theorem writeS_scalars (r : SReg) (x : Scalar) : (s.writeS r x).scalars = s.scalars.set r.toNat x (r.isLt) := rfl
@[simp] theorem writeS_buf (r : SReg) (x : Scalar) : (s.writeS r x).buf = s.buf := rfl
@[simp] theorem writeS_phase (r : SReg) (x : Scalar) : (s.writeS r x).phase = s.phase := rfl
@[simp] theorem writeS_err (r : SReg) (x : Scalar) : (s.writeS r x).err = s.err := rfl
@[simp] theorem writeS_drop (r : SReg) (x : Scalar) : (s.writeS r x).drop = s.drop := rfl
@[simp] theorem writeS_errcause (r : SReg) (x : Scalar) : (s.writeS r x).errcause = s.errcause := rfl
@[simp] theorem writeS_errcmd (r : SReg) (x : Scalar) : (s.writeS r x).errcmd = s.errcmd := rfl
@[simp] theorem writeS_cmdcount (r : SReg) (x : Scalar) : (s.writeS r x).cmdcount = s.cmdcount := rfl
@[simp] theorem writeS_pending (r : SReg) (x : Scalar) : (s.writeS r x).pending = s.pending := rfl
@[simp] theorem writeS_returned (r : SReg) (x : Scalar) : (s.writeS r x).returned = s.returned := rfl
@[simp] theorem writeS_schedule (r : SReg) (x : Scalar) : (s.writeS r x).schedule = s.schedule := rfl
@[simp] theorem writeS_resets (r : SReg) (x : Scalar) : (s.writeS r x).resets = s.resets := rfl

@[simp] theorem storeBytes_files (a : Nat) (bs : List Byte) : (s.storeBytes a bs).files = s.files := rfl
@[simp] theorem storeBytes_scalars (a : Nat) (bs : List Byte) : (s.storeBytes a bs).scalars = s.scalars := rfl
@[simp] theorem storeBytes_buf (a : Nat) (bs : List Byte) : (s.storeBytes a bs).buf = s.buf.setBytes a bs := rfl
@[simp] theorem storeBytes_phase (a : Nat) (bs : List Byte) : (s.storeBytes a bs).phase = s.phase := rfl
@[simp] theorem storeBytes_err (a : Nat) (bs : List Byte) : (s.storeBytes a bs).err = s.err := rfl
@[simp] theorem storeBytes_drop (a : Nat) (bs : List Byte) : (s.storeBytes a bs).drop = s.drop := rfl
@[simp] theorem storeBytes_errcause (a : Nat) (bs : List Byte) : (s.storeBytes a bs).errcause = s.errcause := rfl
@[simp] theorem storeBytes_errcmd (a : Nat) (bs : List Byte) : (s.storeBytes a bs).errcmd = s.errcmd := rfl
@[simp] theorem storeBytes_cmdcount (a : Nat) (bs : List Byte) : (s.storeBytes a bs).cmdcount = s.cmdcount := rfl
@[simp] theorem storeBytes_pending (a : Nat) (bs : List Byte) : (s.storeBytes a bs).pending = s.pending := rfl
@[simp] theorem storeBytes_returned (a : Nat) (bs : List Byte) : (s.storeBytes a bs).returned = s.returned := rfl
@[simp] theorem storeBytes_schedule (a : Nat) (bs : List Byte) : (s.storeBytes a bs).schedule = s.schedule := rfl
@[simp] theorem storeBytes_resets (a : Nat) (bs : List Byte) : (s.storeBytes a bs).resets = s.resets := rfl

@[simp] theorem errorEntry_files (e : ErrorCause) (c : Word32) : (s.errorEntry e c).files = s.files := rfl
@[simp] theorem errorEntry_scalars (e : ErrorCause) (c : Word32) : (s.errorEntry e c).scalars = s.scalars := rfl
@[simp] theorem errorEntry_buf (e : ErrorCause) (c : Word32) : (s.errorEntry e c).buf = s.buf := rfl
@[simp] theorem errorEntry_phase (e : ErrorCause) (c : Word32) : (s.errorEntry e c).phase = s.phase := rfl
@[simp] theorem errorEntry_err (e : ErrorCause) (c : Word32) : (s.errorEntry e c).err = true := rfl
@[simp] theorem errorEntry_drop (e : ErrorCause) (c : Word32) : (s.errorEntry e c).drop = s.drop := rfl
@[simp] theorem errorEntry_errcause (e : ErrorCause) (c : Word32) : (s.errorEntry e c).errcause = some e := rfl
@[simp] theorem errorEntry_errcmd (e : ErrorCause) (c : Word32) : (s.errorEntry e c).errcmd = c := rfl
@[simp] theorem errorEntry_cmdcount (e : ErrorCause) (c : Word32) : (s.errorEntry e c).cmdcount = s.cmdcount := rfl
@[simp] theorem errorEntry_pending (e : ErrorCause) (c : Word32) : (s.errorEntry e c).pending = s.pending := rfl
@[simp] theorem errorEntry_returned (e : ErrorCause) (c : Word32) : (s.errorEntry e c).returned = s.returned := rfl
@[simp] theorem errorEntry_schedule (e : ErrorCause) (c : Word32) : (s.errorEntry e c).schedule = s.schedule := rfl
@[simp] theorem errorEntry_resets (e : ErrorCause) (c : Word32) : (s.errorEntry e c).resets = s.resets := rfl

@[simp] theorem writeStatus_files (d : Word32) : (s.writeStatus d).files = s.files := rfl
@[simp] theorem writeStatus_scalars (d : Word32) : (s.writeStatus d).scalars = s.scalars := rfl
@[simp] theorem writeStatus_buf (d : Word32) : (s.writeStatus d).buf = s.buf := rfl
@[simp] theorem writeStatus_phase (d : Word32) : (s.writeStatus d).phase = s.phase := rfl
@[simp] theorem writeStatus_err (d : Word32) : (s.writeStatus d).err = (s.err && !d.getLsbD 1) := rfl
@[simp] theorem writeStatus_drop (d : Word32) : (s.writeStatus d).drop = (s.drop && !d.getLsbD 2) := rfl
@[simp] theorem writeStatus_errcause (d : Word32) : (s.writeStatus d).errcause = s.errcause := rfl
@[simp] theorem writeStatus_errcmd (d : Word32) : (s.writeStatus d).errcmd = s.errcmd := rfl
@[simp] theorem writeStatus_cmdcount (d : Word32) : (s.writeStatus d).cmdcount = s.cmdcount := rfl
@[simp] theorem writeStatus_pending (d : Word32) : (s.writeStatus d).pending = s.pending := rfl
@[simp] theorem writeStatus_returned (d : Word32) : (s.writeStatus d).returned = s.returned := rfl
@[simp] theorem writeStatus_schedule (d : Word32) : (s.writeStatus d).schedule = s.schedule := rfl
@[simp] theorem writeStatus_resets (d : Word32) : (s.writeStatus d).resets = s.resets := rfl

@[simp] theorem accept_files (c : Word32) : (s.accept c).files = s.files := rfl
@[simp] theorem accept_scalars (c : Word32) : (s.accept c).scalars = s.scalars := rfl
@[simp] theorem accept_buf (c : Word32) : (s.accept c).buf = s.buf := rfl
@[simp] theorem accept_phase (c : Word32) : (s.accept c).phase = .busy c := rfl
@[simp] theorem accept_err (c : Word32) : (s.accept c).err = s.err := rfl
@[simp] theorem accept_drop (c : Word32) : (s.accept c).drop = s.drop := rfl
@[simp] theorem accept_errcause (c : Word32) : (s.accept c).errcause = s.errcause := rfl
@[simp] theorem accept_errcmd (c : Word32) : (s.accept c).errcmd = s.errcmd := rfl
@[simp] theorem accept_cmdcount (c : Word32) : (s.accept c).cmdcount = s.cmdcount + 1 := rfl
@[simp] theorem accept_pending (c : Word32) : (s.accept c).pending = s.pending := rfl
@[simp] theorem accept_returned (c : Word32) : (s.accept c).returned = s.returned := rfl
@[simp] theorem accept_schedule (c : Word32) : (s.accept c).schedule = s.schedule := rfl
@[simp] theorem accept_resets (c : Word32) : (s.accept c).resets = s.resets := rfl

@[simp] theorem discard_files : s.discard.files = s.files := rfl
@[simp] theorem discard_scalars : s.discard.scalars = s.scalars := rfl
@[simp] theorem discard_buf : s.discard.buf = s.buf := rfl
@[simp] theorem discard_phase : s.discard.phase = s.phase := rfl
@[simp] theorem discard_err : s.discard.err = s.err := rfl
@[simp] theorem discard_drop : s.discard.drop = true := rfl
@[simp] theorem discard_errcause : s.discard.errcause = s.errcause := rfl
@[simp] theorem discard_errcmd : s.discard.errcmd = s.errcmd := rfl
@[simp] theorem discard_cmdcount : s.discard.cmdcount = s.cmdcount := rfl
@[simp] theorem discard_pending : s.discard.pending = s.pending := rfl
@[simp] theorem discard_returned : s.discard.returned = s.returned := rfl
@[simp] theorem discard_schedule : s.discard.schedule = s.schedule := rfl
@[simp] theorem discard_resets : s.discard.resets = s.resets := rfl

@[simp] theorem complete_files : s.complete.files = s.files := rfl
@[simp] theorem complete_scalars : s.complete.scalars = s.scalars := rfl
@[simp] theorem complete_buf : s.complete.buf = s.buf := rfl
@[simp] theorem complete_phase : s.complete.phase = .idle := rfl
@[simp] theorem complete_err : s.complete.err = s.err := rfl
@[simp] theorem complete_drop : s.complete.drop = s.drop := rfl
@[simp] theorem complete_errcause : s.complete.errcause = s.errcause := rfl
@[simp] theorem complete_errcmd : s.complete.errcmd = s.errcmd := rfl
@[simp] theorem complete_cmdcount : s.complete.cmdcount = s.cmdcount := rfl
@[simp] theorem complete_pending : s.complete.pending = s.pending := rfl
@[simp] theorem complete_returned : s.complete.returned = s.returned := rfl
@[simp] theorem complete_schedule : s.complete.schedule = s.schedule := rfl
@[simp] theorem complete_resets : s.complete.resets = s.resets := rfl

@[simp] theorem answer_files (v : Word32) : (s.answer v).files = s.files := rfl
@[simp] theorem answer_scalars (v : Word32) : (s.answer v).scalars = s.scalars := rfl
@[simp] theorem answer_buf (v : Word32) : (s.answer v).buf = s.buf := rfl
@[simp] theorem answer_phase (v : Word32) : (s.answer v).phase = s.phase := rfl
@[simp] theorem answer_err (v : Word32) : (s.answer v).err = s.err := rfl
@[simp] theorem answer_drop (v : Word32) : (s.answer v).drop = s.drop := rfl
@[simp] theorem answer_errcause (v : Word32) : (s.answer v).errcause = s.errcause := rfl
@[simp] theorem answer_errcmd (v : Word32) : (s.answer v).errcmd = s.errcmd := rfl
@[simp] theorem answer_cmdcount (v : Word32) : (s.answer v).cmdcount = s.cmdcount := rfl
@[simp] theorem answer_pending (v : Word32) : (s.answer v).pending = s.pending := rfl
@[simp] theorem answer_returned (v : Word32) : (s.answer v).returned = s.returned ++ [v] := rfl
@[simp] theorem answer_schedule (v : Word32) : (s.answer v).schedule = s.schedule := rfl
@[simp] theorem answer_resets (v : Word32) : (s.answer v).resets = s.resets := rfl

@[simp] theorem takeTurn_files : s.takeTurn.files = s.files := rfl
@[simp] theorem takeTurn_scalars : s.takeTurn.scalars = s.scalars := rfl
@[simp] theorem takeTurn_buf : s.takeTurn.buf = s.buf := rfl
@[simp] theorem takeTurn_phase : s.takeTurn.phase = s.phase := rfl
@[simp] theorem takeTurn_err : s.takeTurn.err = s.err := rfl
@[simp] theorem takeTurn_drop : s.takeTurn.drop = s.drop := rfl
@[simp] theorem takeTurn_errcause : s.takeTurn.errcause = s.errcause := rfl
@[simp] theorem takeTurn_errcmd : s.takeTurn.errcmd = s.errcmd := rfl
@[simp] theorem takeTurn_cmdcount : s.takeTurn.cmdcount = s.cmdcount := rfl
@[simp] theorem takeTurn_pending : s.takeTurn.pending = s.pending := rfl
@[simp] theorem takeTurn_returned : s.takeTurn.returned = s.returned := rfl
@[simp] theorem takeTurn_schedule : s.takeTurn.schedule = s.schedule.tail := rfl
@[simp] theorem takeTurn_resets : s.takeTurn.resets = s.resets := rfl

@[simp] theorem loadCommand_files (c : Word32) : (s.loadCommand c).files = s.files := rfl
@[simp] theorem loadCommand_scalars (c : Word32) : (s.loadCommand c).scalars = s.scalars := rfl
@[simp] theorem loadCommand_buf (c : Word32) : (s.loadCommand c).buf = s.buf := rfl
@[simp] theorem loadCommand_phase (c : Word32) : (s.loadCommand c).phase = .busy c := rfl
@[simp] theorem loadCommand_err (c : Word32) : (s.loadCommand c).err = false := rfl
@[simp] theorem loadCommand_drop (c : Word32) : (s.loadCommand c).drop = s.drop := rfl
@[simp] theorem loadCommand_errcause (c : Word32) : (s.loadCommand c).errcause = s.errcause := rfl
@[simp] theorem loadCommand_errcmd (c : Word32) : (s.loadCommand c).errcmd = s.errcmd := rfl
@[simp] theorem loadCommand_cmdcount (c : Word32) : (s.loadCommand c).cmdcount = s.cmdcount + 1 := rfl
@[simp] theorem loadCommand_pending (c : Word32) : (s.loadCommand c).pending = s.pending := rfl
@[simp] theorem loadCommand_returned (c : Word32) : (s.loadCommand c).returned = s.returned := rfl
@[simp] theorem loadCommand_schedule (c : Word32) : (s.loadCommand c).schedule = .engine :: s.schedule := rfl
@[simp] theorem loadCommand_resets (c : Word32) : (s.loadCommand c).resets = s.resets := rfl

@[simp] theorem platformReset_files (fate : HeldFate) : (s.platformReset fate).files = s.files.afterReset s.resets := rfl
@[simp] theorem platformReset_buf (fate : HeldFate) : (s.platformReset fate).buf = [] := rfl
@[simp] theorem platformReset_phase (fate : HeldFate) : (s.platformReset fate).phase = .idle := rfl
@[simp] theorem platformReset_err (fate : HeldFate) : (s.platformReset fate).err = false := rfl
@[simp] theorem platformReset_drop (fate : HeldFate) : (s.platformReset fate).drop = false := rfl
@[simp] theorem platformReset_errcause (fate : HeldFate) : (s.platformReset fate).errcause = none := rfl
@[simp] theorem platformReset_errcmd (fate : HeldFate) : (s.platformReset fate).errcmd = 0 := rfl
@[simp] theorem platformReset_cmdcount (fate : HeldFate) : (s.platformReset fate).cmdcount = 0 := rfl
@[simp] theorem platformReset_resets (fate : HeldFate) : (s.platformReset fate).resets = s.resets + 1 := rfl

end Sys2Proof.Machine
end

