-- ==== Sys2Proof/Laws/Registers.lean ====
section
/-! SUPPORT. The laws of the register files: range, read after write, and what each update leaves alone. -/

namespace Sys2Proof.Machine

/-! ## One file set -/

theorem FileSet.readV_lt {n : Nat} (f : FileSet n) (r : VReg) : f.readV r < 2 ^ (64 * n) := BitVec.isLt _

theorem FileSet.readP_lt {n : Nat} (f : FileSet n) (r : PReg) : f.readP r < 2 ^ (128 * n) := BitVec.isLt _

theorem FileSet.readV_writeV {n : Nat} (f : FileSet n) (r q : VReg) (x : Nat) :
    (f.writeV r x).readV q = if q = r then x % 2 ^ (64 * n) else f.readV q := by
  by_cases h : q = r
  · subst h
    simp [FileSet.readV, FileSet.writeV]
  · have h' : r.toNat ≠ q.toNat := fun e => h (BitVec.eq_of_toNat_eq e.symm)
    simp [FileSet.readV, FileSet.writeV, h, Vector.getElem_set_ne _ _ h']

theorem FileSet.readP_writeP {n : Nat} (f : FileSet n) (r q : PReg) (x : Nat) :
    (f.writeP r x).readP q = if q = r then x % 2 ^ (128 * n) else f.readP q := by
  by_cases h : q = r
  · subst h
    simp [FileSet.readP, FileSet.writeP]
  · have h' : r.toNat ≠ q.toNat := fun e => h (BitVec.eq_of_toNat_eq e.symm)
    simp [FileSet.readP, FileSet.writeP, h, Vector.getElem_set_ne _ _ h']

/-! ## The files of an instance -/

@[simp] theorem Files.inst_writeV (f : Files) (r : VReg) (x : Nat) : (f.writeV r x).inst = f.inst := by cases f <;> rfl

@[simp] theorem Files.inst_writeP (f : Files) (r : PReg) (x : Nat) : (f.writeP r x).inst = f.inst := by cases f <;> rfl

@[simp] theorem Files.inst_afterReset (f : Files) (k : Nat) : (f.afterReset k).inst = f.inst := by cases f <;> rfl

@[simp] theorem Files.inst_zero (i : Instance) : (Files.zero i).inst = i := by cases i <;> rfl

@[simp] theorem Files.readP_writeV (f : Files) (r : VReg) (x : Nat) (q : PReg) : (f.writeV r x).readP q = f.readP q := by
  cases f <;> rfl

@[simp] theorem Files.readV_writeP (f : Files) (r : PReg) (x : Nat) (q : VReg) : (f.writeP r x).readV q = f.readV q := by
  cases f <;> rfl

theorem Files.readV_writeV (f : Files) (r q : VReg) (x : Nat) :
    (f.writeV r x).readV q = if q = r then x % 2 ^ (64 * f.inst.nwords) else f.readV q := by
  cases f with
  | n8 f => exact (FileSet.readV_writeV f r q x).trans (by rw [show (Files.n8 f).inst.nwords = 8 from rfl]; rfl)
  | n16 f => exact (FileSet.readV_writeV f r q x).trans (by rw [show (Files.n16 f).inst.nwords = 16 from rfl]; rfl)

theorem Files.readP_writeP (f : Files) (r q : PReg) (x : Nat) :
    (f.writeP r x).readP q = if q = r then x % 2 ^ (128 * f.inst.nwords) else f.readP q := by
  cases f with
  | n8 f => exact (FileSet.readP_writeP f r q x).trans (by rw [show (Files.n8 f).inst.nwords = 8 from rfl]; rfl)
  | n16 f => exact (FileSet.readP_writeP f r q x).trans (by rw [show (Files.n16 f).inst.nwords = 16 from rfl]; rfl)

/-! ## The state -/

/-- N is 8 or 16. -/
theorem nwords_cases (s : State) : s.nwords = 8 ∨ s.nwords = 16 := by
  unfold State.nwords
  cases s.inst <;> simp [Instance.nwords]

theorem width_pos (s : State) : 0 < s.width := by
  rcases nwords_cases s with h | h <;> simp [State.width, h]

/-- A value register holds a natural below 2^W (10_state.md R20). -/
theorem readV_lt (s : State) (r : VReg) : s.readV r < 2 ^ s.width := by
  unfold State.readV State.width State.nwords State.inst
  cases s.files with
  | n8 f => rw [show (Files.n8 f).inst.nwords = 8 from rfl]; exact FileSet.readV_lt f r
  | n16 f => rw [show (Files.n16 f).inst.nwords = 16 from rfl]; exact FileSet.readV_lt f r

/-- A wide register holds a natural below 2^(2W) (10_state.md R22). -/
theorem readP_lt (s : State) (r : PReg) : s.readP r < 2 ^ (2 * s.width) := by
  unfold State.readP
  rw [show 2 * s.width = 128 * s.files.inst.nwords by unfold State.width State.nwords State.inst; omega]
  cases s.files with
  | n8 f => rw [show (Files.n8 f).inst.nwords = 8 from rfl]; exact FileSet.readP_lt f r
  | n16 f => rw [show (Files.n16 f).inst.nwords = 16 from rfl]; exact FileSet.readP_lt f r

theorem readV_writeV (s : State) (r q : VReg) (x : Nat) :
    (s.writeV r x).readV q = if q = r then x % 2 ^ s.width else s.readV q := Files.readV_writeV _ r q x

theorem readP_writeP (s : State) (r q : PReg) (x : Nat) :
    (s.writeP r x).readP q = if q = r then x % 2 ^ (2 * s.width) else s.readP q := by
  have h : 128 * s.files.inst.nwords = 2 * s.width := by
    unfold State.width State.nwords State.inst
    omega
  rw [← h]
  exact Files.readP_writeP _ r q x

theorem readS_writeS (s : State) (r q : SReg) (x : Scalar) :
    (s.writeS r x).readS q = if q = r then x else s.readS q := by
  by_cases h : q = r
  · subst h
    simp [State.readS, State.writeS]
  · have h' : r.toNat ≠ q.toNat := fun e => h (BitVec.eq_of_toNat_eq e.symm)
    simp [State.readS, State.writeS, h, Vector.getElem_set_ne _ _ h']

/-- A value register written with a value in range holds it. -/
theorem readV_writeV_same {s : State} {r : VReg} {x : Nat} (h : x < 2 ^ s.width) : (s.writeV r x).readV r = x := by
  rw [readV_writeV, if_pos rfl, Nat.mod_eq_of_lt h]

theorem readV_writeV_other {s : State} {r q : VReg} {x : Nat} (h : q ≠ r) : (s.writeV r x).readV q = s.readV q := by
  rw [readV_writeV, if_neg h]

theorem readP_writeP_same {s : State} {r : PReg} {x : Nat} (h : x < 2 ^ (2 * s.width)) : (s.writeP r x).readP r = x := by
  rw [readP_writeP, if_pos rfl, Nat.mod_eq_of_lt h]

theorem readP_writeP_other {s : State} {r q : PReg} {x : Nat} (h : q ≠ r) : (s.writeP r x).readP q = s.readP q := by
  rw [readP_writeP, if_neg h]

@[simp] theorem readS_writeS_same (s : State) (r : SReg) (x : Scalar) : (s.writeS r x).readS r = x := by
  rw [readS_writeS, if_pos rfl]

theorem readS_writeS_other {s : State} {r q : SReg} {x : Scalar} (h : q ≠ r) : (s.writeS r x).readS q = s.readS q := by
  rw [readS_writeS, if_neg h]

variable (s : State)

@[simp] theorem readP_writeV (r : VReg) (x : Nat) (q : PReg) : (s.writeV r x).readP q = s.readP q := Files.readP_writeV _ r x q
@[simp] theorem readS_writeV (r : VReg) (x : Nat) (q : SReg) : (s.writeV r x).readS q = s.readS q := rfl
@[simp] theorem inst_writeV (r : VReg) (x : Nat) : (s.writeV r x).inst = s.inst := Files.inst_writeV _ r x
@[simp] theorem readV_writeP (r : PReg) (x : Nat) (q : VReg) : (s.writeP r x).readV q = s.readV q := Files.readV_writeP _ r x q
@[simp] theorem readS_writeP (r : PReg) (x : Nat) (q : SReg) : (s.writeP r x).readS q = s.readS q := rfl
@[simp] theorem inst_writeP (r : PReg) (x : Nat) : (s.writeP r x).inst = s.inst := Files.inst_writeP _ r x
@[simp] theorem readV_writeS (r : SReg) (x : Scalar) (q : VReg) : (s.writeS r x).readV q = s.readV q := rfl
@[simp] theorem readP_writeS (r : SReg) (x : Scalar) (q : PReg) : (s.writeS r x).readP q = s.readP q := rfl
@[simp] theorem inst_writeS (r : SReg) (x : Scalar) : (s.writeS r x).inst = s.inst := rfl
@[simp] theorem readV_storeBytes (a : Nat) (bs : List Byte) (q : VReg) : (s.storeBytes a bs).readV q = s.readV q := rfl
@[simp] theorem readP_storeBytes (a : Nat) (bs : List Byte) (q : PReg) : (s.storeBytes a bs).readP q = s.readP q := rfl
@[simp] theorem readS_storeBytes (a : Nat) (bs : List Byte) (q : SReg) : (s.storeBytes a bs).readS q = s.readS q := rfl
@[simp] theorem inst_storeBytes (a : Nat) (bs : List Byte) : (s.storeBytes a bs).inst = s.inst := rfl
@[simp] theorem readV_errorEntry (e : ErrorCause) (c : Word32) (q : VReg) : (s.errorEntry e c).readV q = s.readV q := rfl
@[simp] theorem readP_errorEntry (e : ErrorCause) (c : Word32) (q : PReg) : (s.errorEntry e c).readP q = s.readP q := rfl
@[simp] theorem readS_errorEntry (e : ErrorCause) (c : Word32) (q : SReg) : (s.errorEntry e c).readS q = s.readS q := rfl
@[simp] theorem inst_errorEntry (e : ErrorCause) (c : Word32) : (s.errorEntry e c).inst = s.inst := rfl
@[simp] theorem readV_complete (q : VReg) : s.complete.readV q = s.readV q := rfl
@[simp] theorem readP_complete (q : PReg) : s.complete.readP q = s.readP q := rfl
@[simp] theorem readS_complete (q : SReg) : s.complete.readS q = s.readS q := rfl
@[simp] theorem inst_complete : s.complete.inst = s.inst := rfl
@[simp] theorem readV_takeTurn (q : VReg) : s.takeTurn.readV q = s.readV q := rfl
@[simp] theorem readP_takeTurn (q : PReg) : s.takeTurn.readP q = s.readP q := rfl
@[simp] theorem readS_takeTurn (q : SReg) : s.takeTurn.readS q = s.readS q := rfl
@[simp] theorem inst_takeTurn : s.takeTurn.inst = s.inst := rfl
@[simp] theorem isBusy_complete : s.complete.isBusy = false := rfl
@[simp] theorem isBusy_accept (c : Word32) : (s.accept c).isBusy = true := rfl

/-- The width depends on the instance alone. -/
theorem width_of_inst {s t : State} (h : t.inst = s.inst) : t.width = s.width := by
  unfold State.width State.nwords
  rw [h]

end Sys2Proof.Machine
end

