-- ==== Sys2Proof/Laws/Ops.lean ====
section
/-! SUPPORT. One lemma per shared operation that says once everything it can do. -/

namespace Sys2Proof.Machine

theorem inRange_iff (addr n : Nat) : inRange addr n = true ↔ addr + n ≤ 4096 := by simp [inRange]

/-- `raise` always goes on, with the error entry. -/
theorem raise_eq (e : ErrorCause) (c : Word32) (s : State) : raise e c s = .next (s.errorEntry e c) := rfl

/-- The error entry takes the error, and that is all. -/
theorem errorEntry_taken (e : ErrorCause) (c : Word32) (s : State) : ErrorTaken e c s (s.errorEntry e c) :=
  ⟨rfl, rfl, rfl, fun _ => rfl, fun _ => rfl, fun _ => rfl, rfl, ⟨rfl, rfl, rfl, rfl, rfl, rfl, rfl, rfl⟩⟩

/-- What `readRegion` can do: out of range the error, in range the continuation, or the fault of an unwritten byte. -/
theorem readRegion_cases (c : Word32) (s : State) (addr n skip len : Nat) (k : List Byte → State) :
    (¬ addr + n ≤ 4096 ∧ readRegion c s addr n skip len k = .next (s.errorEntry .bufferRange c)) ∨
    (addr + n ≤ 4096 ∧ ∃ bytes, s.buf.bytesAt (addr + skip) len = some bytes ∧
      readRegion c s addr n skip len k = .next (k bytes)) ∨
    (addr + n ≤ 4096 ∧ s.buf.bytesAt (addr + skip) len = none ∧
      readRegion c s addr n skip len k = .fault .unwrittenByte) := by
  unfold readRegion
  by_cases h : addr + n ≤ 4096
  · rw [if_pos ((inRange_iff addr n).2 h)]
    cases hb : s.buf.bytesAt (addr + skip) len with
    | none => exact .inr (.inr ⟨h, rfl, rfl⟩)
    | some bytes => exact .inr (.inl ⟨h, bytes, rfl, rfl⟩)
  · rw [if_neg (by rw [inRange_iff]; exact h)]
    exact .inl ⟨h, rfl⟩

/-- What `writeRegion` can do: out of range the error, in range the store and then the continuation. -/
theorem writeRegion_cases (c : Word32) (s : State) (addr : Nat) (bytes : List Byte) (k : State → State) :
    (¬ addr + bytes.length ≤ 4096 ∧ writeRegion c s addr bytes k = .next (s.errorEntry .bufferRange c)) ∨
    (addr + bytes.length ≤ 4096 ∧ writeRegion c s addr bytes k = .next (k (s.storeBytes addr bytes))) := by
  unfold writeRegion
  by_cases h : addr + bytes.length ≤ 4096
  · rw [if_pos ((inRange_iff _ _).2 h)]
    exact .inr ⟨h, rfl⟩
  · rw [if_neg (by rw [inRange_iff]; exact h)]
    exact .inl ⟨h, rfl⟩

/-- What `divideBy` can do. -/
theorem divideBy_cases (c : Word32) (f : Nat → Nat → Nat) (vd va vb : VReg) (s : State) :
    (s.readV vb = 0 ∧ divideBy c f vd va vb s = .next (s.errorEntry .divisionByZero c)) ∨
    (s.readV vb ≠ 0 ∧ divideBy c f vd va vb s = .next (s.writeV vd (f (s.readV va) (s.readV vb)))) := by
  unfold divideBy
  by_cases h : s.readV vb = 0
  · exact .inl ⟨h, if_pos h⟩
  · exact .inr ⟨h, if_neg h⟩

/-- The bit position of an index in [0, W), and none outside it (42_bit.md R168). -/
theorem bitPosition_cases (s : State) (r : SReg) :
    (0 ≤ s.bitIndex r ∧ s.bitIndex r < s.width ∧ s.bitPosition? r = some (s.bitIndex r).toNat) ∨
    (¬ (0 ≤ s.bitIndex r ∧ s.bitIndex r < s.width) ∧ s.bitPosition? r = none) := by
  unfold State.bitPosition?
  by_cases h : 0 ≤ s.bitIndex r ∧ s.bitIndex r < s.width
  · exact .inl ⟨h.1, h.2, if_pos h⟩
  · exact .inr ⟨h, if_neg h⟩

/-- `changeBit` always writes one value register. -/
theorem changeBit_eq (f : Nat → Nat → Nat) (vd va : VReg) (sb : SReg) (s : State) :
    changeBit f vd va sb s =
      .next (s.writeV vd (match s.bitPosition? sb with
        | some i => f (s.readV va) i
        | none => s.readV va)) := by
  unfold changeBit
  cases s.bitPosition? sb <;> rfl

/-- What an engine step makes of a command that goes on. -/
theorem completeResult_eq_next {r : Result} {t : State} :
    completeResult r = .next t ↔ ∃ u, r = .next u ∧ t = u.complete := by
  cases r with
  | next u => simp [completeResult, eq_comm]
  | fault f => simp [completeResult]
  | refused f => simp [completeResult]

/-! ## Frames of the updates the meanings are made of -/

theorem sameControl_refl (s : State) : SameControl s s := ⟨rfl, rfl, rfl, rfl, rfl, rfl, rfl, rfl⟩

theorem sameErrors_refl (s : State) : SameErrors s s := ⟨rfl, rfl, rfl⟩

theorem sameControl_writeV (s : State) (r : VReg) (x : Nat) : SameControl s (s.writeV r x) :=
  ⟨inst_writeV s r x, rfl, rfl, rfl, rfl, rfl, rfl, rfl⟩

theorem sameControl_writeP (s : State) (r : PReg) (x : Nat) : SameControl s (s.writeP r x) :=
  ⟨inst_writeP s r x, rfl, rfl, rfl, rfl, rfl, rfl, rfl⟩

theorem onlyWrites_nothing (s : State) : OnlyWrites none none none (fun _ => False) s s :=
  ⟨fun _ _ => rfl, fun _ _ => rfl, fun _ _ => rfl, fun _ _ => rfl, sameErrors_refl s, sameControl_refl s⟩

/-- Writing a value register changes that register alone. -/
theorem onlyWritesV_writeV (s : State) (r : VReg) (x : Nat) : OnlyWritesV r s (s.writeV r x) :=
  ⟨fun _ h => readV_writeV_other fun e => h (by rw [e]), fun q _ => readP_writeV s r x q, fun _ _ => rfl, fun _ _ => rfl,
    ⟨rfl, rfl, rfl⟩, sameControl_writeV s r x⟩

/-- Writing a scalar register changes that register alone. -/
theorem onlyWritesS_writeS (s : State) (r : SReg) (x : Scalar) : OnlyWritesS r s (s.writeS r x) :=
  ⟨fun _ _ => rfl, fun _ _ => rfl, fun _ h => readS_writeS_other fun e => h (by rw [e]), fun _ _ => rfl,
    ⟨rfl, rfl, rfl⟩, ⟨rfl, rfl, rfl, rfl, rfl, rfl, rfl, rfl⟩⟩

/-- Writing a wide register changes that register alone. -/
theorem onlyWrites_writeP (s : State) (r : PReg) (x : Nat) :
    OnlyWrites none (some r) none (fun _ => False) s (s.writeP r x) :=
  ⟨fun q _ => readV_writeP s r x q, fun _ h => readP_writeP_other fun e => h (by rw [e]), fun _ _ => rfl, fun _ _ => rfl,
    ⟨rfl, rfl, rfl⟩, sameControl_writeP s r x⟩

/-- Storing bytes changes the bytes of the region alone. -/
theorem onlyWrites_storeBytes (s : State) (a : Nat) (bs : List Byte) :
    OnlyWrites none none none (fun k => a ≤ k ∧ k < a + bs.length) s (s.storeBytes a bs) :=
  ⟨fun _ _ => rfl, fun _ _ => rfl, fun _ _ => rfl, fun _ h => byteAt_setBytes_outside h,
    ⟨rfl, rfl, rfl⟩, ⟨rfl, rfl, rfl, rfl, rfl, rfl, rfl, rfl⟩⟩

/-! ## The host port -/

/-- What a host read can do. -/
theorem hostRead_cases (s : State) (o : HostOffset) (w : AccessWidth) :
    (accessAllowed o w = false ∧ s.hostRead o w = .refused .hostBusError) ∨
    (accessAllowed o w = true ∧ o.toNat < windowBase ∧ s.hostRead o w = .next (s.answer (s.controlWord o.toNat))) ∨
    (accessAllowed o w = true ∧ windowBase ≤ o.toNat ∧ ∃ bytes, s.buf.bytesAt (o.toNat - windowBase) w.bytes = some bytes ∧
      s.hostRead o w = .next (s.answer (BitVec.ofNat 32 (natOfBytes bytes)))) ∨
    (accessAllowed o w = true ∧ windowBase ≤ o.toNat ∧ s.buf.bytesAt (o.toNat - windowBase) w.bytes = none ∧
      s.hostRead o w = .fault .unwrittenByte) := by
  unfold State.hostRead
  cases ha : accessAllowed o w with
  | false => exact .inl ⟨rfl, rfl⟩
  | true =>
    rw [if_pos rfl]
    by_cases hw : o.toNat < windowBase
    · exact .inr (.inl ⟨rfl, hw, if_pos hw⟩)
    · rw [if_neg hw]
      have hw' : windowBase ≤ o.toNat := by omega
      cases hb : s.buf.bytesAt (o.toNat - windowBase) w.bytes with
      | none => exact .inr (.inr (.inr ⟨rfl, hw', rfl, rfl⟩))
      | some bytes => exact .inr (.inr (.inl ⟨rfl, hw', bytes, rfl, rfl⟩))

/-- What a host write can do. -/
theorem hostWrite_cases (s : State) (o : HostOffset) (w : AccessWidth) (d : Word32) :
    (accessAllowed o w = false ∧ s.hostWrite o w d = .refused .hostBusError) ∨
    (accessAllowed o w = true ∧ o.toNat < windowBase ∧ s.hostWrite o w d = .next (s.writeControl o.toNat d)) ∨
    (accessAllowed o w = true ∧ windowBase ≤ o.toNat ∧
      s.hostWrite o w d = .next (s.storeBytes (o.toNat - windowBase) (bytesOfNat w.bytes d.toNat))) := by
  unfold State.hostWrite
  cases ha : accessAllowed o w with
  | false => exact .inl ⟨rfl, rfl⟩
  | true =>
    rw [if_pos rfl]
    by_cases hw : o.toNat < windowBase
    · exact .inr (.inl ⟨rfl, hw, if_pos hw⟩)
    · exact .inr (.inr ⟨rfl, by omega, if_neg hw⟩)

/-- A 4-byte write of the control space issues a command, writes STATUS, or changes nothing. -/
theorem writeControl_cases (s : State) (o : Nat) (d : Word32) :
    (o = offCmd ∧ s.writeControl o d = s.issue d) ∨
    (o = offStatus ∧ s.writeControl o d = s.writeStatus d) ∨
    (o ≠ offCmd ∧ o ≠ offStatus ∧ s.writeControl o d = s) := by
  unfold State.writeControl
  by_cases h1 : o = offCmd
  · exact .inl ⟨h1, if_pos h1⟩
  · rw [if_neg h1]
    by_cases h2 : o = offStatus
    · exact .inr (.inl ⟨h2, if_pos h2⟩)
    · exact .inr (.inr ⟨h1, h2, if_neg h2⟩)

/-- An allowed window access lies inside `BUF`. -/
theorem window_inside {o : HostOffset} {w : AccessWidth} (ha : accessAllowed o w = true) (hw : windowBase ≤ o.toNat) :
    o.toNat - windowBase + w.bytes ≤ 4096 := by
  have hlt : o.toNat < 8192 := o.isLt
  have hal : o.toNat % w.bytes = 0 := by
    simp only [accessAllowed, Bool.and_eq_true, beq_iff_eq] at ha
    exact ha.1
  simp only [windowBase] at hw ⊢
  cases w <;> simp only [AccessWidth.bytes] at hal ⊢ <;> omega

/-- Issuing a command accepts it when ERR = 0 and discards it when ERR = 1 (20_memory.md R52). -/
theorem issue_cases (s : State) (c : Word32) :
    (s.err = false ∧ s.issue c = s.accept c) ∨ (s.err = true ∧ s.issue c = s.discard) := by
  unfold State.issue
  cases s.err
  · exact .inl ⟨rfl, rfl⟩
  · exact .inr ⟨rfl, rfl⟩

/-- The accesses BUSY does not hold (20_memory.md R51). -/
theorem unheld_iff (a : HostAccess) : a.unheld = true ↔ PerformedAtOnce a := by
  constructor
  · intro h
    cases a with
    | read o w =>
      simp only [HostAccess.unheld, HostAccess.width, Bool.and_eq_true, Bool.or_eq_true, beq_iff_eq] at h
      obtain ⟨rfl, h⟩ := h
      have hv (x : HostOffset) (e : o.toNat = x.toNat) : o = x := BitVec.eq_of_toNat_eq e
      rcases h with ((h | h) | h) | h
      · exact .inl (by simp [hv 0x000 h])
      · exact .inl (by simp [hv 0x004 h])
      · exact .inl (by simp [hv 0x008 h])
      · exact .inl (by simp [hv 0x010 h])
    | write o w d =>
      simp only [HostAccess.unheld, HostAccess.width, Bool.and_eq_true, beq_iff_eq] at h
      obtain ⟨rfl, h⟩ := h
      exact .inr ⟨d, by rw [show o = 0x010 from BitVec.eq_of_toNat_eq h]⟩
  · rintro (h | ⟨d, rfl⟩)
    · simp only [List.mem_cons, List.not_mem_nil, or_false] at h
      rcases h with rfl | rfl | rfl | rfl <;> rfl
    · rfl

/-- The accesses the host address map does not allow (20_memory.md R43). -/
theorem accessAllowed_eq_false_iff (a : HostAccess) : accessAllowed a.offset a.width = false ↔ BusError a := by
  simp only [accessAllowed, BusError, Bool.and_eq_false_iff, Bool.or_eq_false_iff, beq_eq_false_iff_ne,
    decide_eq_false_iff_not, Nat.not_le]
  cases a.width <;> simp [AccessWidth.bytes, windowBase]

/-- An access is held when the engine is BUSY and R51 does not perform it at once. -/
theorem holdsAccess_iff (s : State) :
    s.holdsAccess = true ↔ s.isBusy = true ∧ ∃ a rest, s.pending = a :: rest ∧ ¬ PerformedAtOnce a := by
  unfold State.holdsAccess State.hostMayMove
  cases s.pending with
  | nil => simp
  | cons a rest => simp [← unheld_iff]

/-- What the platform's reset leaves of the host's accesses where none is held: all of them. -/
theorem platformReset_of_not_held {s : State} (h : s.holdsAccess = false) (fate : HeldFate) :
    (s.platformReset fate).pending = s.pending ∧ (s.platformReset fate).returned = s.returned := by
  simp [State.platformReset, h]

/-- What the platform's reset leaves of them where the next one is held. -/
theorem platformReset_of_held {s : State} (h : s.holdsAccess = true) (fate : HeldFate) :
    (s.platformReset fate).pending = (s.settleHeld fate).pending ∧
    (s.platformReset fate).returned = (s.settleHeld fate).returned := by
  simp [State.platformReset, h]

/-! ## The step -/

/-- Everything a step can be: the platform's reset, the host's next access, or the engine's execution. -/
theorem step_cases (s : State) :
    (∃ fate, s.turn = .reset fate ∧ step s = .next (s.takeTurn.platformReset fate)) ∨
    ((s.phase = .idle ∨ s.turn = .host ∧ s.hostMayMove = true) ∧ step s = s.takeTurn.hostMoves) ∨
    (∃ c, s.phase = .busy c ∧ step s = engineMoves c s.takeTurn) := by
  unfold step
  cases ht : s.turn with
  | reset fate => exact .inl ⟨fate, rfl, rfl⟩
  | engine =>
    cases hp : s.phase with
    | idle => exact .inr (.inl ⟨.inl rfl, rfl⟩)
    | busy c => exact .inr (.inr ⟨c, rfl, rfl⟩)
  | host =>
    cases hp : s.phase with
    | idle => exact .inr (.inl ⟨.inl rfl, rfl⟩)
    | busy c =>
      cases hm : s.hostMayMove with
      | true => exact .inr (.inl ⟨.inr ⟨rfl, rfl⟩, by simp⟩)
      | false => exact .inr (.inr ⟨c, rfl, by simp⟩)

end Sys2Proof.Machine
end

