-- ==== Sys2Proof/Laws/PerInstr.lean ====
section
/-! SUPPORT. The family Listing: the listing line of every command is well-formed and assembles to that command
(30_encoding.md R83). One lemma per shape of operand list, then one per constructor of Instr. -/

namespace Sys2Proof.Laws.Listing

open Sys2Proof

/-- The listing line of a command is well-formed and assembles to it. -/
def Statement (i : Instr) : Prop := i.line.wf = true ∧ i.line.instr? = some i

theorem v_inRange (r : VReg) : (Operand.v r.toNat).inRange = true := decide_eq_true r.isLt

theorem p_inRange (r : PReg) : (Operand.p r.toNat).inRange = true := decide_eq_true r.isLt

theorem s_inRange (r : SReg) : (Operand.s r.toNat).inRange = true := decide_eq_true r.isLt

theorem imm_inRange (x : Imm16) : (Operand.imm x.toNat).inRange = true := by
  have := x.isLt
  simp only [Operand.inRange, Bool.and_eq_true, decide_eq_true_eq]
  omega

theorem wfVV (m : Mnemonic) (h : m.signature = [.v, .v]) (d : VReg) (a : VReg) :
    (Line.mk m [.v d.toNat, .v a.toNat]).wf = true := by
  simp [Line.wf, h, Operand.kind, v_inRange d, v_inRange a]

theorem readVV (k : VReg → VReg → Instr) (d : VReg) (a : VReg) :
    operandsVV k [.v d.toNat, .v a.toNat] = some (k d a) := by
  simp [operandsVV]

theorem wfV (m : Mnemonic) (h : m.signature = [.v]) (d : VReg) :
    (Line.mk m [.v d.toNat]).wf = true := by
  simp [Line.wf, h, Operand.kind, v_inRange d]

theorem readV (k : VReg → Instr) (d : VReg) :
    operandsV k [.v d.toNat] = some (k d) := by
  simp [operandsV]

theorem wfVVV (m : Mnemonic) (h : m.signature = [.v, .v, .v]) (d : VReg) (a : VReg) (b : VReg) :
    (Line.mk m [.v d.toNat, .v a.toNat, .v b.toNat]).wf = true := by
  simp [Line.wf, h, Operand.kind, v_inRange d, v_inRange a, v_inRange b]

theorem readVVV (k : VReg → VReg → VReg → Instr) (d : VReg) (a : VReg) (b : VReg) :
    operandsVVV k [.v d.toNat, .v a.toNat, .v b.toNat] = some (k d a b) := by
  simp [operandsVVV]

theorem wfPVV (m : Mnemonic) (h : m.signature = [.p, .v, .v]) (d : PReg) (a : VReg) (b : VReg) :
    (Line.mk m [.p d.toNat, .v a.toNat, .v b.toNat]).wf = true := by
  simp [Line.wf, h, Operand.kind, p_inRange d, v_inRange a, v_inRange b]

theorem readPVV (k : PReg → VReg → VReg → Instr) (d : PReg) (a : VReg) (b : VReg) :
    operandsPVV k [.p d.toNat, .v a.toNat, .v b.toNat] = some (k d a b) := by
  simp [operandsPVV]

theorem wfVP (m : Mnemonic) (h : m.signature = [.v, .p]) (d : VReg) (a : PReg) :
    (Line.mk m [.v d.toNat, .p a.toNat]).wf = true := by
  simp [Line.wf, h, Operand.kind, v_inRange d, p_inRange a]

theorem readVP (k : VReg → PReg → Instr) (d : VReg) (a : PReg) :
    operandsVP k [.v d.toNat, .p a.toNat] = some (k d a) := by
  simp [operandsVP]

theorem wfSP (m : Mnemonic) (h : m.signature = [.s, .p]) (d : SReg) (a : PReg) :
    (Line.mk m [.s d.toNat, .p a.toNat]).wf = true := by
  simp [Line.wf, h, Operand.kind, s_inRange d, p_inRange a]

theorem readSP (k : SReg → PReg → Instr) (d : SReg) (a : PReg) :
    operandsSP k [.s d.toNat, .p a.toNat] = some (k d a) := by
  simp [operandsSP]

theorem wfVVS (m : Mnemonic) (h : m.signature = [.v, .v, .s]) (d : VReg) (a : VReg) (b : SReg) :
    (Line.mk m [.v d.toNat, .v a.toNat, .s b.toNat]).wf = true := by
  simp [Line.wf, h, Operand.kind, v_inRange d, v_inRange a, s_inRange b]

theorem readVVS (k : VReg → VReg → SReg → Instr) (d : VReg) (a : VReg) (b : SReg) :
    operandsVVS k [.v d.toNat, .v a.toNat, .s b.toNat] = some (k d a b) := by
  simp [operandsVVS]

theorem wfVVI (m : Mnemonic) (h : m.signature = [.v, .v, .imm]) (d : VReg) (a : VReg) (b : Imm16) :
    (Line.mk m [.v d.toNat, .v a.toNat, .imm b.toNat]).wf = true := by
  simp [Line.wf, h, Operand.kind, v_inRange d, v_inRange a, imm_inRange b]

theorem readVVI (k : VReg → VReg → Imm16 → Instr) (d : VReg) (a : VReg) (b : Imm16) :
    operandsVVI k [.v d.toNat, .v a.toNat, .imm b.toNat] = some (k d a b) := by
  simp [operandsVVI]

theorem wfSVS (m : Mnemonic) (h : m.signature = [.s, .v, .s]) (d : SReg) (a : VReg) (b : SReg) :
    (Line.mk m [.s d.toNat, .v a.toNat, .s b.toNat]).wf = true := by
  simp [Line.wf, h, Operand.kind, s_inRange d, v_inRange a, s_inRange b]

theorem readSVS (k : SReg → VReg → SReg → Instr) (d : SReg) (a : VReg) (b : SReg) :
    operandsSVS k [.s d.toNat, .v a.toNat, .s b.toNat] = some (k d a b) := by
  simp [operandsSVS]

theorem wfSV (m : Mnemonic) (h : m.signature = [.s, .v]) (d : SReg) (a : VReg) :
    (Line.mk m [.s d.toNat, .v a.toNat]).wf = true := by
  simp [Line.wf, h, Operand.kind, s_inRange d, v_inRange a]

theorem readSV (k : SReg → VReg → Instr) (d : SReg) (a : VReg) :
    operandsSV k [.s d.toNat, .v a.toNat] = some (k d a) := by
  simp [operandsSV]

theorem wfSVV (m : Mnemonic) (h : m.signature = [.s, .v, .v]) (d : SReg) (a : VReg) (b : VReg) :
    (Line.mk m [.s d.toNat, .v a.toNat, .v b.toNat]).wf = true := by
  simp [Line.wf, h, Operand.kind, s_inRange d, v_inRange a, v_inRange b]

theorem readSVV (k : SReg → VReg → VReg → Instr) (d : SReg) (a : VReg) (b : VReg) :
    operandsSVV k [.s d.toNat, .v a.toNat, .v b.toNat] = some (k d a b) := by
  simp [operandsSVV]

theorem wfVS (m : Mnemonic) (h : m.signature = [.v, .s]) (d : VReg) (a : SReg) :
    (Line.mk m [.v d.toNat, .s a.toNat]).wf = true := by
  simp [Line.wf, h, Operand.kind, v_inRange d, s_inRange a]

theorem readVS (k : VReg → SReg → Instr) (d : VReg) (a : SReg) :
    operandsVS k [.v d.toNat, .s a.toNat] = some (k d a) := by
  simp [operandsVS]

theorem wfVSS (m : Mnemonic) (h : m.signature = [.v, .s, .s]) (d : VReg) (a : SReg) (b : SReg) :
    (Line.mk m [.v d.toNat, .s a.toNat, .s b.toNat]).wf = true := by
  simp [Line.wf, h, Operand.kind, v_inRange d, s_inRange a, s_inRange b]

theorem readVSS (k : VReg → SReg → SReg → Instr) (d : VReg) (a : SReg) (b : SReg) :
    operandsVSS k [.v d.toNat, .s a.toNat, .s b.toNat] = some (k d a b) := by
  simp [operandsVSS]

theorem wfSPS (m : Mnemonic) (h : m.signature = [.s, .p, .s]) (d : SReg) (a : PReg) (b : SReg) :
    (Line.mk m [.s d.toNat, .p a.toNat, .s b.toNat]).wf = true := by
  simp [Line.wf, h, Operand.kind, s_inRange d, p_inRange a, s_inRange b]

theorem readSPS (k : SReg → PReg → SReg → Instr) (d : SReg) (a : PReg) (b : SReg) :
    operandsSPS k [.s d.toNat, .p a.toNat, .s b.toNat] = some (k d a b) := by
  simp [operandsSPS]

theorem wfSI (m : Mnemonic) (h : m.signature = [.s, .imm]) (d : SReg) (a : Imm16) :
    (Line.mk m [.s d.toNat, .imm a.toNat]).wf = true := by
  simp [Line.wf, h, Operand.kind, s_inRange d, imm_inRange a]

theorem readSI (k : SReg → Imm16 → Instr) (d : SReg) (a : Imm16) :
    operandsSI k [.s d.toNat, .imm a.toNat] = some (k d a) := by
  simp [operandsSI]

theorem wfSS (m : Mnemonic) (h : m.signature = [.s, .s]) (d : SReg) (a : SReg) :
    (Line.mk m [.s d.toNat, .s a.toNat]).wf = true := by
  simp [Line.wf, h, Operand.kind, s_inRange d, s_inRange a]

theorem readSS (k : SReg → SReg → Instr) (d : SReg) (a : SReg) :
    operandsSS k [.s d.toNat, .s a.toNat] = some (k d a) := by
  simp [operandsSS]

theorem nop : Statement .nop := ⟨rfl, rfl⟩

theorem mov (vd : VReg) (va : VReg) : Statement (.mov vd va) := ⟨wfVV _ rfl vd va, readVV _ vd va⟩

theorem zero (vd : VReg) : Statement (.zero vd) := ⟨wfV _ rfl vd, readV _ vd⟩

theorem one (vd : VReg) : Statement (.one vd) := ⟨wfV _ rfl vd, readV _ vd⟩

theorem maxv (vd : VReg) : Statement (.maxv vd) := ⟨wfV _ rfl vd, readV _ vd⟩

theorem add (vd : VReg) (va : VReg) (vb : VReg) : Statement (.add vd va vb) := ⟨wfVVV _ rfl vd va vb, readVVV _ vd va vb⟩

theorem sub (vd : VReg) (va : VReg) (vb : VReg) : Statement (.sub vd va vb) := ⟨wfVVV _ rfl vd va vb, readVVV _ vd va vb⟩

theorem mul (pd : PReg) (va : VReg) (vb : VReg) : Statement (.mul pd va vb) := ⟨wfPVV _ rfl pd va vb, readPVV _ pd va vb⟩

theorem div (vd : VReg) (va : VReg) (vb : VReg) : Statement (.div vd va vb) := ⟨wfVVV _ rfl vd va vb, readVVV _ vd va vb⟩

theorem mod (vd : VReg) (va : VReg) (vb : VReg) : Statement (.mod vd va vb) := ⟨wfVVV _ rfl vd va vb, readVVV _ vd va vb⟩

theorem plo (vd : VReg) (pa : PReg) : Statement (.plo vd pa) := ⟨wfVP _ rfl vd pa, readVP _ vd pa⟩

theorem phi (vd : VReg) (pa : PReg) : Statement (.phi vd pa) := ⟨wfVP _ rfl vd pa, readVP _ vd pa⟩

theorem pisz (sd : SReg) (pa : PReg) : Statement (.pisz sd pa) := ⟨wfSP _ rfl sd pa, readSP _ sd pa⟩

theorem and (vd : VReg) (va : VReg) (vb : VReg) : Statement (.and vd va vb) := ⟨wfVVV _ rfl vd va vb, readVVV _ vd va vb⟩

theorem or (vd : VReg) (va : VReg) (vb : VReg) : Statement (.or vd va vb) := ⟨wfVVV _ rfl vd va vb, readVVV _ vd va vb⟩

theorem xor (vd : VReg) (va : VReg) (vb : VReg) : Statement (.xor vd va vb) := ⟨wfVVV _ rfl vd va vb, readVVV _ vd va vb⟩

theorem not (vd : VReg) (va : VReg) : Statement (.not vd va) := ⟨wfVV _ rfl vd va, readVV _ vd va⟩

theorem shl (vd : VReg) (va : VReg) (sb : SReg) : Statement (.shl vd va sb) := ⟨wfVVS _ rfl vd va sb, readVVS _ vd va sb⟩

theorem shr (vd : VReg) (va : VReg) (sb : SReg) : Statement (.shr vd va sb) := ⟨wfVVS _ rfl vd va sb, readVVS _ vd va sb⟩

theorem shli (vd : VReg) (va : VReg) (imm16 : Imm16) : Statement (.shli vd va imm16) := ⟨wfVVI _ rfl vd va imm16, readVVI _ vd va imm16⟩

theorem shri (vd : VReg) (va : VReg) (imm16 : Imm16) : Statement (.shri vd va imm16) := ⟨wfVVI _ rfl vd va imm16, readVVI _ vd va imm16⟩

theorem bit (sd : SReg) (va : VReg) (sb : SReg) : Statement (.bit sd va sb) := ⟨wfSVS _ rfl sd va sb, readSVS _ sd va sb⟩

theorem setbit (vd : VReg) (va : VReg) (sb : SReg) : Statement (.setbit vd va sb) := ⟨wfVVS _ rfl vd va sb, readVVS _ vd va sb⟩

theorem clrbit (vd : VReg) (va : VReg) (sb : SReg) : Statement (.clrbit vd va sb) := ⟨wfVVS _ rfl vd va sb, readVVS _ vd va sb⟩

theorem flipbit (vd : VReg) (va : VReg) (sb : SReg) : Statement (.flipbit vd va sb) := ⟨wfVVS _ rfl vd va sb, readVVS _ vd va sb⟩

theorem clz (sd : SReg) (va : VReg) : Statement (.clz sd va) := ⟨wfSV _ rfl sd va, readSV _ sd va⟩

theorem ctz (sd : SReg) (va : VReg) : Statement (.ctz sd va) := ⟨wfSV _ rfl sd va, readSV _ sd va⟩

theorem popc (sd : SReg) (va : VReg) : Statement (.popc sd va) := ⟨wfSV _ rfl sd va, readSV _ sd va⟩

theorem eq (sd : SReg) (va : VReg) (vb : VReg) : Statement (.eq sd va vb) := ⟨wfSVV _ rfl sd va vb, readSVV _ sd va vb⟩

theorem ne (sd : SReg) (va : VReg) (vb : VReg) : Statement (.ne sd va vb) := ⟨wfSVV _ rfl sd va vb, readSVV _ sd va vb⟩

theorem lt (sd : SReg) (va : VReg) (vb : VReg) : Statement (.lt sd va vb) := ⟨wfSVV _ rfl sd va vb, readSVV _ sd va vb⟩

theorem le (sd : SReg) (va : VReg) (vb : VReg) : Statement (.le sd va vb) := ⟨wfSVV _ rfl sd va vb, readSVV _ sd va vb⟩

theorem gt (sd : SReg) (va : VReg) (vb : VReg) : Statement (.gt sd va vb) := ⟨wfSVV _ rfl sd va vb, readSVV _ sd va vb⟩

theorem ge (sd : SReg) (va : VReg) (vb : VReg) : Statement (.ge sd va vb) := ⟨wfSVV _ rfl sd va vb, readSVV _ sd va vb⟩

theorem cmp (sd : SReg) (va : VReg) (vb : VReg) : Statement (.cmp sd va vb) := ⟨wfSVV _ rfl sd va vb, readSVV _ sd va vb⟩

theorem isodd (sd : SReg) (va : VReg) : Statement (.isodd sd va) := ⟨wfSV _ rfl sd va, readSV _ sd va⟩

theorem iseven (sd : SReg) (va : VReg) : Statement (.iseven sd va) := ⟨wfSV _ rfl sd va, readSV _ sd va⟩

theorem min (vd : VReg) (va : VReg) (vb : VReg) : Statement (.min vd va vb) := ⟨wfVVV _ rfl vd va vb, readVVV _ vd va vb⟩

theorem max (vd : VReg) (va : VReg) (vb : VReg) : Statement (.max vd va vb) := ⟨wfVVV _ rfl vd va vb, readVVV _ vd va vb⟩

theorem froms (vd : VReg) (sa : SReg) : Statement (.froms vd sa) := ⟨wfVS _ rfl vd sa, readVS _ vd sa⟩

theorem fromw (vd : VReg) (sa : SReg) (sb : SReg) : Statement (.fromw vd sa sb) := ⟨wfVSS _ rfl vd sa sb, readVSS _ vd sa sb⟩

theorem fromle (vd : VReg) (sa : SReg) (sb : SReg) : Statement (.fromle vd sa sb) := ⟨wfVSS _ rfl vd sa sb, readVSS _ vd sa sb⟩

theorem frombe (vd : VReg) (sa : SReg) (sb : SReg) : Statement (.frombe vd sa sb) := ⟨wfVSS _ rfl vd sa sb, readVSS _ vd sa sb⟩

theorem tow (va : VReg) (sb : SReg) : Statement (.tow va sb) := ⟨wfVS _ rfl va sb, readVS _ va sb⟩

theorem tole (va : VReg) (sb : SReg) : Statement (.tole va sb) := ⟨wfVS _ rfl va sb, readVS _ va sb⟩

theorem tobe (va : VReg) (sb : SReg) : Statement (.tobe va sb) := ⟨wfVS _ rfl va sb, readVS _ va sb⟩

theorem dec (sd : SReg) (va : VReg) (sb : SReg) : Statement (.dec sd va sb) := ⟨wfSVS _ rfl sd va sb, readSVS _ sd va sb⟩

theorem hex (sd : SReg) (va : VReg) (sb : SReg) : Statement (.hex sd va sb) := ⟨wfSVS _ rfl sd va sb, readSVS _ sd va sb⟩

theorem pdec (sd : SReg) (pa : PReg) (sb : SReg) : Statement (.pdec sd pa sb) := ⟨wfSPS _ rfl sd pa sb, readSPS _ sd pa sb⟩

theorem sli (sd : SReg) (imm16 : Imm16) : Statement (.sli sd imm16) := ⟨wfSI _ rfl sd imm16, readSI _ sd imm16⟩

theorem sshi (sd : SReg) (imm16 : Imm16) : Statement (.sshi sd imm16) := ⟨wfSI _ rfl sd imm16, readSI _ sd imm16⟩

theorem lds (sd : SReg) (sa : SReg) : Statement (.lds sd sa) := ⟨wfSS _ rfl sd sa, readSS _ sd sa⟩

theorem sts (sa : SReg) (sb : SReg) : Statement (.sts sa sb) := ⟨wfSS _ rfl sa sb, readSS _ sa sb⟩

theorem smov (sd : SReg) (sa : SReg) : Statement (.smov sd sa) := ⟨wfSS _ rfl sd sa, readSS _ sd sa⟩

end Sys2Proof.Laws.Listing
end

