-- ==== Sys2Proof/Tests/Slice0.lean ====
section
/-! SUPPORT. The model's own tests: expected results from 95_test_vectors.md (the vector's name stands with each), one
step each on a small state; and for every statement with hypotheses a concrete case that meets them. -/

open Sys2Proof Sys2Proof.Machine

namespace Sys2Proof.Tests

set_option exponentiation.threshold 4096
set_option Elab.async false

/-! ## Helpers -/

/-- An instance after reset with the given V, P, S registers and `BUF` bytes written. -/
def st (inst : Instance) (v : List (VReg × Nat)) (p : List (PReg × Nat)) (s : List (SReg × Nat))
    (bytes : List (Nat × List Nat)) : State :=
  let a := v.foldl (fun t x => t.writeV x.1 x.2) (State.resetFor inst)
  let b := p.foldl (fun t x => t.writeP x.1 x.2) a
  let c := s.foldl (fun t x => t.writeS x.1 (BitVec.ofNat 64 x.2)) b
  bytes.foldl (fun t x => t.storeBytes x.1 (x.2.map (BitVec.ofNat 8))) c

/-- The next state satisfies a test. -/
def goesOn (r : Result) (p : State → Bool) : Bool :=
  match r with
  | .next t => p t
  | _ => false

/-- The outcome is the fault f. -/
def faults (r : Result) (f : Fault) : Bool :=
  match r with
  | .fault g => g == f
  | _ => false

/-- The outcome is the refusal f. -/
def refuses (r : Result) (f : Refusal) : Bool :=
  match r with
  | .refused g => g == f
  | _ => false

/-- One step that fetches and runs the word ends IDLE in a state that satisfies a test. -/
def ran (w : Word32) (s : State) (p : State → Bool) : Bool :=
  goesOn (step (s.withFetchWord 32 w.toNat)) fun t => !t.isBusy && p t

/-- A value register holds x, and there is no error. -/
def hasV (d : VReg) (x : Nat) (t : State) : Bool := t.readV d == x && !t.err

/-- A wide register holds x, and there is no error. -/
def hasP (d : PReg) (x : Nat) (t : State) : Bool := t.readP d == x && !t.err

/-- A scalar register holds the pattern of x, and there is no error. -/
def hasS (d : SReg) (x : Nat) (t : State) : Bool := t.readS d == BitVec.ofNat 64 x && !t.err

/-- `BUF` holds the bytes from an address up. -/
def holds (a : Nat) (bytes : List Nat) (t : State) : Bool :=
  t.buf.bytesAt a bytes.length == some (bytes.map (BitVec.ofNat 8))

/-- The error record of a command that failed. -/
def failed (e : ErrorCause) (w : Word32) (t : State) : Bool := t.err && t.errcause == some e && t.errcmd == w

/-- The ASCII codes of a character string. -/
def ascii (x : String) : List Nat := x.toList.map Char.toNat

/-- The host asks for these accesses, and it is its turn. -/
def asks (s : State) (accesses : List HostAccess) : State := { s with pending := accesses, schedule := [.host] }

/-- A command word is in execution, with the given turns next. -/
def busyWith (s : State) (w : Word32) (turns : List Turn) : State := { s with phase := .busy w, schedule := turns }

theorem idle_host_turn (s : State) (accesses : List HostAccess) (h : s.phase = .idle) : HostTurnIdle (asks s accesses) :=
  ⟨h, fun _ h => by cases h⟩

/-! ## Decoding: words written out from 30_encoding.md R71 to R76 and the words of 95_test_vectors.md -/

theorem test_decode_representation :
    decode 0x00000000 = .ok .nop ∧ decode 0x01120000 = .ok (.mov 1 2) ∧ decode 0x02200000 = .ok (.zero 2) ∧
    decode 0x03100000 = .ok (.one 1) ∧ decode 0x04200000 = .ok (.maxv 2) := by decide +kernel

theorem test_decode_arithmetic :
    decode 0x10123000 = .ok (.add 1 2 3) ∧ decode 0x11401000 = .ok (.sub 4 0 1) ∧
    decode 0x12312000 = .ok (.mul 3 1 2) ∧ decode 0x13312000 = .ok (.div 3 1 2) ∧
    decode 0x14412000 = .ok (.mod 4 1 2) ∧ decode 0x18020000 = .ok (.plo 0 2) ∧
    decode 0x19400000 = .ok (.phi 4 0) ∧ decode 0x1A030000 = .ok (.pisz 0 3) := by decide +kernel

theorem test_decode_logic :
    decode 0x20012000 = .ok (.and 0 1 2) ∧ decode 0x21012000 = .ok (.or 0 1 2) ∧
    decode 0x22012000 = .ok (.xor 0 1 2) ∧ decode 0x23010000 = .ok (.not 0 1) ∧
    decode 0x24012000 = .ok (.shl 0 1 2) ∧ decode 0x25312000 = .ok (.shr 3 1 2) ∧
    decode 0x26010201 = .ok (.shli 0 1 513) ∧ decode 0x270101FF = .ok (.shri 0 1 511) := by decide +kernel

theorem test_decode_bits :
    decode 0x28312000 = .ok (.bit 3 1 2) ∧ decode 0x29012000 = .ok (.setbit 0 1 2) ∧
    decode 0x2A012000 = .ok (.clrbit 0 1 2) ∧ decode 0x2B312000 = .ok (.flipbit 3 1 2) ∧
    decode 0x2C010000 = .ok (.clz 0 1) ∧ decode 0x2D100000 = .ok (.ctz 1 0) ∧
    decode 0x2E510000 = .ok (.popc 5 1) := by decide +kernel

theorem test_decode_compare :
    decode 0x30212000 = .ok (.eq 2 1 2) ∧ decode 0x31012000 = .ok (.ne 0 1 2) ∧
    decode 0x32331000 = .ok (.lt 3 3 1) ∧ decode 0x33012000 = .ok (.le 0 1 2) ∧
    decode 0x34012000 = .ok (.gt 0 1 2) ∧ decode 0x35012000 = .ok (.ge 0 1 2) ∧
    decode 0x36121000 = .ok (.cmp 1 2 1) ∧ decode 0x37010000 = .ok (.isodd 0 1) ∧
    decode 0x38110000 = .ok (.iseven 1 1) ∧ decode 0x39112000 = .ok (.min 1 1 2) ∧
    decode 0x3A012000 = .ok (.max 0 1 2) := by decide +kernel

theorem test_decode_codec :
    decode 0x40220000 = .ok (.froms 2 2) ∧ decode 0x41212000 = .ok (.fromw 2 1 2) ∧
    decode 0x42112000 = .ok (.fromle 1 1 2) ∧ decode 0x43012000 = .ok (.frombe 0 1 2) ∧
    decode 0x44011000 = .ok (.tow 1 1) ∧ decode 0x45072000 = .ok (.tole 7 2) ∧
    decode 0x46001000 = .ok (.tobe 0 1) ∧ decode 0x47302000 = .ok (.dec 3 0 2) ∧
    decode 0x48514000 = .ok (.hex 5 1 4) ∧ decode 0x49134000 = .ok (.pdec 1 3 4) := by decide +kernel

theorem test_decode_scalar :
    decode 0x5050BEEF = .ok (.sli 5 0xBEEF) ∧ decode 0x51501234 = .ok (.sshi 5 0x1234) ∧
    decode 0x52210000 = .ok (.lds 2 1) ∧ decode 0x53052000 = .ok (.sts 5 2) ∧
    decode 0x54430000 = .ok (.smov 4 3) := by decide +kernel

/-- The words the opcode table's columns give decode to the row (30_encoding.md R76). -/
theorem test_decode_table_word :
    decodeTableWord 32 0x12312000 = some (.mul 3 1 2) ∧ decodeTableWord 32 0x12712000 = none := by decide +kernel

/-- Y1 to Y11. -/
theorem test_illegal_words :
    decode 0xFFFFFFFF = .error .unassignedOpcode ∧ decode 0x05000000 = .error .unassignedOpcode ∧
    decode 0x10000001 = .error .mustBeZeroBit ∧ decode 0x12423000 = .error .wideSlot ∧
    decode 0x00000001 = .error .mustBeZeroBit ∧ decode 0x18040000 = .error .wideSlot ∧
    decode 0x23001000 = .error .mustBeZeroBit ∧ decode 0x50F10000 = .error .mustBeZeroBit ∧
    decode 0x44100000 = .error .mustBeZeroBit ∧ decode 0x2F000000 = .error .unassignedOpcode ∧
    decode 0x55000000 = .error .unassignedOpcode := by decide +kernel

/-- Y4: an accepted illegal word. -/
theorem test_illegal_word_runs :
    ran 0x12423000 (st .n8 [(2, 5)] [] [] []) (fun t => failed .illegalCommand 0x12423000 t && t.cmdcount == 1
      && t.readP 0 == 0 && t.readV 2 == 5) = true := by decide +kernel

/-! ## Well-formedness of a listing line (30_encoding.md R83): an ill-formed line for each check -/

theorem test_line_operand_count : (Line.mk .add [.v 1, .v 2]).wf = false ∧ (Line.mk .nop [.v 0]).wf = false := by decide

theorem test_line_operand_file :
    (Line.mk .clz [.v 3, .v 1]).wf = false ∧ (Line.mk .mul [.v 0, .v 1, .v 2]).wf = false ∧
    (Line.mk .sli [.s 1, .s 2]).wf = false := by decide

theorem test_line_register_index :
    (Line.mk .mov [.v 16, .v 0]).wf = false ∧ (Line.mk .plo [.v 0, .p 4]).wf = false ∧
    (Line.mk .smov [.s 0, .s 16]).wf = false := by decide

theorem test_line_immediate :
    (Line.mk .sli [.s 1, .imm 65536]).wf = false ∧ (Line.mk .sli [.s 1, .imm (-1)]).wf = false := by decide

theorem test_line_well_formed :
    (Line.mk .shli [.v 15, .v 0, .imm 65535]).wf = true ∧
    assemble ⟨.shli, [.v 15, .v 0, .imm 65535]⟩ = some (.shli 15 0 0xFFFF) ∧
    assemble ⟨.mov, [.v 16, .v 0]⟩ = none := by decide +kernel

/-! ## Assembler (30_encoding.md R83) -/

theorem test_assemble :
    assembleText "tole v7, s2 ; comment".toList = some [.tole 7 2] ∧
    assembleText "SHLI v0, v1, 0x201".toList = some [.shli 0 1 513] ∧
    assembleText "CLZ v3, v1".toList = none ∧ assembleText "SLI s1, 65536".toList = none ∧
    assembleText "IADD v1, v2".toList = some [.add 1 1 2] := by decide +kernel

/-- Z1 to Z7, as words. -/
theorem test_li :
    ((Pseudo.li 1 0).expand.map encode) = [0x50100000] ∧
    ((Pseudo.li 1 0x10000).expand.map encode) = [0x50100001, 0x51100000] ∧
    ((Pseudo.li 1 0x123456789ABCDEF).expand.map encode) = [0x50100123, 0x51104567, 0x511089AB, 0x5110CDEF] ∧
    ((Pseudo.li 1 (-1)).expand.map encode) = [0x5010FFFF, 0x5110FFFF, 0x5110FFFF, 0x5110FFFF] ∧
    ((Pseudo.li 1 0xFFFFFFFFFFFFFFFF).expand.map encode) = [0x5010FFFF, 0x5110FFFF, 0x5110FFFF, 0x5110FFFF] ∧
    ((Pseudo.li 1 (-9223372036854775808)).expand.map encode) = [0x50108000, 0x51100000, 0x51100000, 0x51100000] := by
  decide +kernel

/-! ## Representation -/

/-- V1. -/
theorem test_nop :
    ran 0x00000000 (st .n8 [(1, 7)] [] [] []) (fun t => hasV 1 7 t && t.cmdcount == 1) = true := by decide +kernel

/-- V2. -/
theorem test_mov : ran 0x01120000 (st .n8 [(2, 2 ^ 64 + 5)] [] [] []) (hasV 1 (2 ^ 64 + 5)) = true := by decide +kernel

/-- V4. -/
theorem test_zero : ran 0x02000000 (st .n8 [(0, 9)] [] [] []) (hasV 0 0) = true := by decide +kernel

/-- V5. -/
theorem test_one : ran 0x03000000 (st .n8 [(0, 9)] [] [] []) (hasV 0 1) = true := by decide +kernel

/-- V6, V7. -/
theorem test_maxv :
    ran 0x04000000 (st .n8 [] [] [] []) (hasV 0 (2 ^ 512 - 1)) = true ∧
    ran 0x04000000 (st .n16 [] [] [] []) (hasV 0 (2 ^ 1024 - 1)) = true := by decide +kernel

/-! ## Arithmetic -/

/-- V9: the carry out of word 7 is discarded. -/
theorem test_add_wraps : ran 0x10012000 (st .n8 [(1, 2 ^ 512 - 1), (2, 1)] [] [] []) (hasV 0 0) = true := by
  decide +kernel

/-- V11: the carry ripples through words 0 to 6. -/
theorem test_add_carries : ran 0x10012000 (st .n8 [(1, 2 ^ 448 - 1), (2, 1)] [] [] []) (hasV 0 (2 ^ 448)) = true := by
  decide +kernel

/-- V19. -/
theorem test_sub_wraps : ran 0x11012000 (st .n16 [(1, 5), (2, 7)] [] [] []) (hasV 0 (2 ^ 1024 - 2)) = true := by
  decide +kernel

/-- V16: a borrow from word 1. -/
theorem test_sub_borrows : ran 0x11012000 (st .n8 [(1, 2 ^ 64), (2, 1)] [] [] []) (hasV 0 (2 ^ 64 - 1)) = true := by
  decide +kernel

/-- V21: the largest product. -/
theorem test_mul :
    ran 0x12112000 (st .n8 [(1, 2 ^ 512 - 1), (2, 2 ^ 512 - 1)] [] [] []) (hasP 1 (2 ^ 1024 - 2 ^ 513 + 1)) = true := by
  decide +kernel

/-- V38: the divisor is the destination. -/
theorem test_div : ran 0x13212000 (st .n8 [(1, 1000), (2, 7)] [] [] []) (hasV 2 142) = true := by decide +kernel

/-- V41: 0 / 0. -/
theorem test_div_by_zero :
    ran 0x13012000 (st .n8 [(0, 3)] [] [] []) (fun t => failed .divisionByZero 0x13012000 t && t.readV 0 == 3) = true := by
  decide +kernel

/-- V36. -/
theorem test_mod : ran 0x14012000 (st .n8 [(1, 2 ^ 512 - 1), (2, 2 ^ 64)] [] [] []) (hasV 0 (2 ^ 64 - 1)) = true := by
  decide +kernel

/-- V40. -/
theorem test_mod_by_zero :
    ran 0x14012000 (st .n8 [(0, 3), (1, 1000)] [] [] []) (fun t => failed .divisionByZero 0x14012000 t && t.readV 0 == 3)
      = true := by decide +kernel

/-- V42. -/
theorem test_plo : ran 0x18010000 (st .n8 [] [(1, 2 ^ 1024 - 2 ^ 513 + 1)] [] []) (hasV 0 1) = true := by decide +kernel

/-- V43. -/
theorem test_phi : ran 0x19010000 (st .n8 [] [(1, 2 ^ 1024 - 2 ^ 513 + 1)] [] []) (hasV 0 (2 ^ 512 - 2)) = true := by
  decide +kernel

/-- V44, V45. -/
theorem test_pisz :
    ran 0x1A010000 (st .n8 [] [(1, 2 ^ 1024 - 2 ^ 513 + 1)] [(0, 7)] []) (hasS 0 0) = true ∧
    ran 0x1A030000 (st .n8 [] [] [] []) (hasS 0 1) = true := by decide +kernel

/-! ## Bit logic, shifts, single bits, counters -/

/-- V46. -/
theorem test_and : ran 0x20012000 (st .n8 [(1, 0xF0F0), (2, 0xFF00)] [] [] []) (hasV 0 0xF000) = true := by decide +kernel

/-- V47. -/
theorem test_or : ran 0x21012000 (st .n8 [(1, 0xF0F0), (2, 0xFF00)] [] [] []) (hasV 0 0xFFF0) = true := by decide +kernel

/-- V48. -/
theorem test_xor : ran 0x22012000 (st .n8 [(1, 0xF0F0), (2, 0xFF00)] [] [] []) (hasV 0 0x0FF0) = true := by decide +kernel

/-- V51. -/
theorem test_not : ran 0x23010000 (st .n8 [(1, 2 ^ 512 - 2)] [] [] []) (hasV 0 1) = true := by decide +kernel

/-- V56. -/
theorem test_shl : ran 0x24012000 (st .n8 [(1, 3)] [] [(2, 65)] []) (hasV 0 (3 * 2 ^ 65)) = true := by decide +kernel

/-- V59: the count is unsigned. -/
theorem test_shl_count_unsigned :
    ran 0x24012000 (st .n8 [(1, 2 ^ 512 - 1)] [] [(2, 2 ^ 64 - 1)] []) (hasV 0 0) = true := by decide +kernel

/-- V61. -/
theorem test_shr : ran 0x25012000 (st .n8 [(1, 2 ^ 64)] [] [(2, 1)] []) (hasV 0 (2 ^ 63)) = true := by decide +kernel

/-- V64: the last count that leaves a bit. -/
theorem test_shr_last : ran 0x25012000 (st .n16 [(1, 2 ^ 1024 - 1)] [] [(2, 1023)] []) (hasV 0 1) = true := by
  decide +kernel

/-- V66. -/
theorem test_shli : ran 0x26010040 (st .n8 [(1, 3)] [] [] []) (hasV 0 (3 * 2 ^ 64)) = true := by decide +kernel

/-- V67: no sign extension, and 0 beyond the width. -/
theorem test_shli_beyond : ran 0x2601FFFF (st .n8 [(0, 8), (1, 3)] [] [] []) (hasV 0 0) = true := by decide +kernel

/-- V69. -/
theorem test_shri : ran 0x270101C0 (st .n8 [(1, 2 ^ 512 - 1)] [] [] []) (hasV 0 (2 ^ 64 - 1)) = true := by decide +kernel

/-- V72. -/
theorem test_bit : ran 0x28312000 (st .n8 [(1, 2 ^ 512 - 1)] [] [(2, 511)] []) (hasS 3 1) = true := by decide +kernel

/-- V74: index -1. -/
theorem test_bit_negative : ran 0x28312000 (st .n8 [(1, 2 ^ 512 - 1)] [] [(2, 2 ^ 64 - 1)] []) (hasS 3 0) = true := by
  decide +kernel

/-- V76. -/
theorem test_setbit : ran 0x29112000 (st .n8 [] [] [(2, 511)] []) (hasV 1 (2 ^ 511)) = true := by decide +kernel

/-- V78: index W copies. -/
theorem test_setbit_copies : ran 0x29012000 (st .n8 [(1, 9)] [] [(2, 512)] []) (hasV 0 9) = true := by decide +kernel

/-- V79. -/
theorem test_clrbit : ran 0x2A012000 (st .n8 [(1, 7)] [] [(2, 1)] []) (hasV 0 5) = true := by decide +kernel

/-- V82. -/
theorem test_flipbit : ran 0x2B012000 (st .n8 [(1, 2 ^ 64)] [] [(2, 64)] []) (hasV 0 0) = true := by decide +kernel

/-- V85, V87. -/
theorem test_clz :
    ran 0x2C010000 (st .n8 [(1, 2 ^ 64)] [] [] []) (hasS 0 447) = true ∧
    ran 0x2C010000 (st .n16 [] [] [] []) (hasS 0 1024) = true := by decide +kernel

/-- V88, V90. -/
theorem test_ctz :
    ran 0x2D010000 (st .n8 [] [] [] []) (hasS 0 512) = true ∧
    ran 0x2D010000 (st .n8 [(1, 2 ^ 511)] [] [] []) (hasS 0 511) = true := by decide +kernel

/-- V94, V95. -/
theorem test_popc :
    ran 0x2E010000 (st .n16 [(1, 2 ^ 1024 - 1)] [] [] []) (hasS 0 1024) = true ∧
    ran 0x2E010000 (st .n8 [(1, 2 ^ 64 + 61680)] [] [] []) (hasS 0 9) = true := by decide +kernel

/-! ## Comparison -/

/-- V96, V97. -/
theorem test_eq :
    ran 0x30012000 (st .n8 [(1, 5), (2, 5)] [] [] []) (hasS 0 1) = true ∧
    ran 0x30012000 (st .n8 [(1, 2 ^ 64), (2, 1)] [] [] []) (hasS 0 0) = true := by decide +kernel

/-- V98. -/
theorem test_ne : ran 0x31012000 (st .n8 [(1, 5), (2, 6)] [] [] []) (hasS 0 1) = true := by decide +kernel

/-- V99, V100. -/
theorem test_lt :
    ran 0x32012000 (st .n8 [(1, 2 ^ 64), (2, 2 ^ 64 - 1)] [] [] []) (hasS 0 0) = true ∧
    ran 0x32012000 (st .n8 [(2, 2 ^ 512 - 1)] [] [] []) (hasS 0 1) = true := by decide +kernel

/-- V102. -/
theorem test_le : ran 0x33012000 (st .n8 [(1, 5), (2, 5)] [] [] []) (hasS 0 1) = true := by decide +kernel

/-- V103. -/
theorem test_gt : ran 0x34012000 (st .n8 [(1, 2 ^ 64), (2, 2 ^ 64 - 1)] [] [] []) (hasS 0 1) = true := by decide +kernel

/-- V104. -/
theorem test_ge : ran 0x35012000 (st .n8 [(1, 4), (2, 5)] [] [(0, 3)] []) (hasS 0 0) = true := by decide +kernel

/-- V105, V106. -/
theorem test_cmp :
    ran 0x36012000 (st .n8 [(1, 3), (2, 9)] [] [] []) (hasS 0 (2 ^ 64 - 1)) = true ∧
    ran 0x36021000 (st .n8 [(1, 3), (2, 9)] [] [] []) (hasS 0 1) = true := by decide +kernel

/-- V108. -/
theorem test_isodd : ran 0x37010000 (st .n8 [(1, 7)] [] [] []) (hasS 0 1) = true := by decide +kernel

/-- V111. -/
theorem test_iseven : ran 0x38010000 (st .n8 [(1, 2 ^ 512 - 1)] [] [(0, 7)] []) (hasS 0 0) = true := by decide +kernel

/-- V114. -/
theorem test_min : ran 0x39112000 (st .n8 [(1, 2 ^ 64), (2, 2 ^ 64 - 1)] [] [] []) (hasV 1 (2 ^ 64 - 1)) = true := by
  decide +kernel

/-- V113. -/
theorem test_max : ran 0x3A012000 (st .n8 [(1, 3), (2, 9)] [] [] []) (hasV 0 9) = true := by decide +kernel

/-! ## Codec -/

/-- X31: the words above word 0 are cleared. -/
theorem test_froms : ran 0x40010000 (st .n8 [(0, 2 ^ 512 - 1)] [] [(1, 2 ^ 64 - 1)] []) (hasV 0 (2 ^ 64 - 1)) = true := by
  decide +kernel

/-- V116. -/
theorem test_fromw :
    ran 0x41012000 (st .n8 [] [] [(1, 0), (2, 2)] [(0, [5, 0, 0, 0, 0, 0, 0, 0, 1, 0, 0, 0, 0, 0, 0, 0])])
      (hasV 0 (2 ^ 64 + 5)) = true := by decide +kernel

/-- V119: 4032 + 72 > 4096. -/
theorem test_fromw_range :
    ran 0x41012000 (st .n8 [(0, 4)] [] [(1, 4032), (2, 9)] [])
      (fun t => failed .bufferRange 0x41012000 t && t.readV 0 == 4) = true := by decide +kernel

/-- V120. -/
theorem test_fromle :
    ran 0x42012000 (st .n8 [] [] [(1, 0), (2, 3)] [(0, [1, 2, 3])]) (hasV 0 0x30201) = true := by decide +kernel

/-- V122: byte 64 of 65 is dropped. -/
theorem test_fromle_overlong :
    ran 0x42012000 (st .n8 [] [] [(1, 0), (2, 65)] [(0, List.replicate 64 0xFF ++ [0xAA])])
      (hasV 0 (2 ^ 512 - 1)) = true := by decide +kernel

/-- V124. -/
theorem test_frombe :
    ran 0x43012000 (st .n8 [] [] [(1, 0), (2, 3)] [(0, [1, 2, 3])]) (hasV 0 0x10203) = true := by decide +kernel

/-- V125: byte 0 of 65 is dropped. -/
theorem test_frombe_overlong :
    ran 0x43012000 (st .n8 [] [] [(1, 0), (2, 65)] [(0, [0xAA] ++ List.replicate 63 0 ++ [1])])
      (hasV 0 1) = true := by decide +kernel

/-- V127. -/
theorem test_tow :
    ran 0x44001000 (st .n8 [(0, 2 ^ 64 + 5)] [] [] [])
      (holds 0 ([5] ++ List.replicate 7 0 ++ [1] ++ List.replicate 55 0)) = true := by decide +kernel

/-- V129: the last legal address. -/
theorem test_tole :
    ran 0x45001000 (st .n8 [(0, 2 ^ 512 - 1)] [] [(1, 4032)] [])
      (fun t => holds 4032 (List.replicate 64 0xFF) t && !t.err) = true := by decide +kernel

/-- V131: addresses do not wrap. -/
theorem test_tole_range :
    ran 0x45001000 (st .n8 [(0, 2 ^ 512 - 1)] [] [(1, 2 ^ 64 - 1)] [])
      (fun t => failed .bufferRange 0x45001000 t && t.buf == []) = true := by decide +kernel

/-- V133. -/
theorem test_tobe :
    ran 0x46001000 (st .n8 [(0, 2 ^ 64 + 2)] [] [] [])
      (holds 0 (List.replicate 55 0 ++ [1] ++ List.replicate 7 0 ++ [2])) = true := by decide +kernel

/-- V139: the address register is the destination, and the string ends at 4096. -/
theorem test_dec :
    ran 0x47101000 (st .n8 [(0, 2 ^ 64 - 1)] [] [(1, 4076)] [])
      (fun t => hasS 1 20 t && holds 4076 (ascii "18446744073709551615") t) = true := by decide +kernel

/-- V138. -/
theorem test_dec_range :
    ran 0x47201000 (st .n8 [(0, 2 ^ 64 - 1)] [] [(1, 4080), (2, 6)] [])
      (fun t => failed .bufferRange 0x47201000 t && t.readS 2 == 6 && t.buf == []) = true := by decide +kernel

/-- V143: the lower word is padded to 16 digits. -/
theorem test_hex :
    ran 0x48201000 (st .n8 [(0, 2 ^ 64)] [] [] [])
      (fun t => hasS 2 19 t && holds 0 (ascii "0x10000000000000000") t) = true := by decide +kernel

/-- V140. -/
theorem test_hex_zero :
    ran 0x48201000 (st .n8 [] [] [] []) (fun t => hasS 2 3 t && holds 0 (ascii "0x0") t) = true := by decide +kernel

/-- V144. -/
theorem test_pdec :
    ran 0x49201000 (st .n8 [] [(0, 20000)] [] []) (fun t => hasS 2 5 t && holds 0 (ascii "20000") t) = true := by
  decide +kernel

/-- V145. -/
theorem test_pdec_zero :
    ran 0x49201000 (st .n8 [] [] [] []) (fun t => hasS 2 1 t && holds 0 (ascii "0") t) = true := by decide +kernel

/-! ## Scalar support -/

/-- V147: no sign extension. -/
theorem test_sli : ran 0x5050FFFF (st .n8 [] [] [] []) (hasS 5 65535) = true := by decide +kernel

/-- V148, V149. -/
theorem test_sshi :
    ran 0x51501234 (st .n8 [] [] [(5, 0xBEEF)] []) (hasS 5 0xBEEF1234) = true ∧
    ran 0x51500001 (st .n8 [] [] [(5, 65535 * 2 ^ 48)] []) (hasS 5 1) = true := by decide +kernel

/-- V150. -/
theorem test_lds :
    ran 0x52210000 (st .n8 [] [] [(1, 8)] [(8, [0xEF, 0xBE, 0, 0, 0, 0, 0, 0])]) (hasS 2 0xBEEF) = true := by
  decide +kernel

/-- V151. -/
theorem test_lds_range :
    ran 0x52210000 (st .n8 [] [] [(1, 4089), (2, 7)] [])
      (fun t => failed .bufferRange 0x52210000 t && t.readS 2 == 7) = true := by decide +kernel

/-- V152. -/
theorem test_sts :
    ran 0x53012000 (st .n8 [] [] [(2, 0x102030405060708)] [(8, [0x77])]) (holds 0 [8, 7, 6, 5, 4, 3, 2, 1, 0x77]) = true := by
  decide +kernel

/-- V153. -/
theorem test_sts_range :
    ran 0x53011000 (st .n8 [] [] [(1, 4095)] []) (fun t => failed .bufferRange 0x53011000 t && t.buf == []) = true := by
  decide +kernel

/-- V154. -/
theorem test_smov : ran 0x54430000 (st .n8 [] [] [(3, 7)] []) (hasS 4 7) = true := by decide +kernel

/-- 70_reset_and_hazards.md R341: a byte that nothing has written. -/
theorem test_unwritten_byte : faults (exec (.fromle 0 1 2) (st .n8 [] [] [(2, 1)] [])) .unwrittenByte = true := by
  decide +kernel

/-! ## Internal algorithms -/

/-- The DivSmall trace of 95_test_vectors.md, Q1 and Q5. -/
theorem test_divSmall :
    Reference.divSmall 10 [5, 1] = ([1844674407370955162, 0], 1) ∧
    Reference.divSmall 10 [0, 1] = ([1844674407370955161, 0], 6) ∧
    Reference.divSmall 10 [9] = ([0], 9) := by decide +kernel

/-- V26, V27, V35, V36 by the binary long division. -/
theorem test_longDiv :
    Reference.longDiv 512 1000 7 = (142, 6) ∧
    Reference.longDiv 512 (2 ^ 512 - 1) (2 ^ 64) = (2 ^ 448 - 1, 2 ^ 64 - 1) := by decide +kernel

/-! ## The host port -/

/-- K1 to K6: what the host's reads return after reset. -/
theorem test_control_reads :
    goesOn (step (asks (st .n8 [] [] [] []) [.read 0x000 .word])) (fun t => t.returned == [0x4755494E]) = true ∧
    goesOn (step (asks (st .n8 [] [] [] []) [.read 0x004 .word])) (fun t => t.returned == [0x10041008]) = true ∧
    goesOn (step (asks (st .n16 [] [] [] []) [.read 0x004 .word])) (fun t => t.returned == [0x10041010]) = true ∧
    goesOn (step (asks (st .n8 [] [] [] []) [.read 0x008 .word])) (fun t => t.returned == [0x00001000]) = true ∧
    goesOn (step (asks (st .n8 [] [] [] []) [.read 0x010 .word])) (fun t => t.returned == [0]) = true ∧
    goesOn (step (asks (st .n8 [] [] [] []) [.read 0x020 .word])) (fun t => t.returned == [0]) = true := by
  decide +kernel

/-- The state the status vectors start from: STATUS 6, ERRCAUSE 1, ERRCMD 0x13012000. -/
def afterError : State :=
  { State.reset with err := true, drop := true, errcause := some .divisionByZero, errcmd := 0x13012000 }

/-- H1 to H7. -/
theorem test_status_writes :
    goesOn (step (asks afterError [.write 0x010 .word 2])) (fun t => t.statusWord == 4 && t.errcmd == 0x13012000) = true ∧
    goesOn (step (asks afterError [.write 0x010 .word 4])) (fun t => t.statusWord == 2) = true ∧
    goesOn (step (asks afterError [.write 0x010 .word 6])) (fun t => t.statusWord == 0) = true ∧
    goesOn (step (asks afterError [.write 0x010 .word 1])) (fun t => t.statusWord == 6) = true ∧
    goesOn (step (asks afterError [.write 0x010 .word 0xFFFFFFF8])) (fun t => t.statusWord == 6) = true ∧
    goesOn (step (asks afterError [.write 0x00C .word 0x10012000]))
      (fun t => t.statusWord == 6 && t.cmdcount == 0 && !t.isBusy) = true := by decide +kernel

/-- H8. -/
theorem test_errcause_read :
    goesOn (step (asks afterError [.read 0x014 .word])) (fun t => t.returned == [1] && t.statusWord == 6) = true := by
  decide +kernel

/-- Program 3: a window read of 4 bytes is little-endian. -/
theorem test_window_read :
    goesOn (step (asks (st .n8 [] [] [] [(256, ascii "18446")]) [.read 0x1100 .word]))
      (fun t => t.returned == [0x34343831]) = true := by decide +kernel

/-- 20_memory.md R44: the last byte of the window, and 2 bytes little-endian. -/
theorem test_window_write :
    goesOn (step (asks (st .n8 [] [] [] []) [.write 0x1FFF .byte 0x12AB])) (holds 4095 [0xAB]) = true ∧
    goesOn (step (asks (st .n8 [] [] [] []) [.write 0x1002 .half 0x12AB])) (holds 2 [0xAB, 0x12]) = true := by
  decide +kernel

/-- 20_memory.md R43. -/
theorem test_bad_access :
    refuses (step (asks (st .n8 [] [] [] []) [.read 0x1001 .half])) .hostBusError = true ∧
    refuses (step (asks (st .n8 [] [] [] []) [.write 0x010 .byte 2])) .hostBusError = true := by decide +kernel

/-- 20_memory.md R51: while BUSY a read of STATUS returns at once, a read of CMDCOUNT waits for the command. -/
theorem test_busy_hold :
    goesOn (step (asks (busyWith State.reset 0x03000000 []) [.read 0x010 .word]))
      (fun t => t.returned == [1] && t.isBusy && t.readV 0 == 0) = true ∧
    goesOn (step (asks (busyWith State.reset 0x03000000 []) [.read 0x01C .word]))
      (fun t => t.returned == [] && !t.isBusy && t.readV 0 == 1 && t.pending == [.read 0x01C .word]) = true := by
  decide +kernel

/-- 70_reset_and_hazards.md R340, R341: the platform's reset clears the control registers and unwrites `BUF`. -/
theorem test_platform_reset :
    goesOn (step { afterError with buf := [(7, 1)], cmdcount := 5, schedule := [.reset .notHeld] })
      (fun t => t.statusWord == 0 && t.errcause == none && t.errcmd == 0 && t.cmdcount == 0 && t.buf == []) = true := by
  decide +kernel

/-- 70_reset_and_hazards.md R342, 20_memory.md R51: a reset while BUSY aborts or completes a held read of CMDCOUNT; a read
of STATUS, which is not held, stays with the host. -/
theorem test_reset_while_busy :
    goesOn (step { busyWith State.reset 0x03000000 [.reset (.completed 9)] with pending := [.read 0x01C .word] })
      (fun t => t.returned == [9] && t.pending == [] && !t.isBusy) = true ∧
    goesOn (step { busyWith State.reset 0x03000000 [.reset .aborted] with pending := [.read 0x01C .word] })
      (fun t => t.returned == [] && t.pending == []) = true ∧
    goesOn (step { busyWith State.reset 0x03000000 [.reset (.completed 9)] with pending := [.read 0x010 .word] })
      (fun t => t.returned == [] && t.pending == [.read 0x010 .word]) = true := by decide +kernel

/-- A run from reset: the host's two accesses, then the engine (20_memory.md R52, R53). -/
theorem test_run_from_reset :
    goesOn (Sys2Proof.core.run 2 (asks State.reset [.write 0x00C .word 0x03100000]))
      (fun t => t.readV 1 == 1 && t.cmdcount == 1 && t.runEnded) = true := by decide +kernel

/-! ## Witnesses: for each statement with hypotheses, states and operands that meet them, at the ends of the ranges -/

/-- A registers-only state the witnesses use. -/
def w8 : State := st .n8 [(1, 5), (2, 7), (3, 2 ^ 512 - 1)] [(1, 9)] [(1, 4032), (2, 2 ^ 64 - 1), (3, 512), (4, 511)] []

/-- A state whose last 64 `BUF` bytes are written, addresses and lengths in S. -/
def wBuf : State :=
  st .n8 [(1, 5)] [] [(1, 4032), (2, 64), (3, 65), (4, 8), (5, 4088), (6, 4089), (7, 4033)] [(4032, List.replicate 64 3)]

theorem witness_EncodeOfDecode : decode 0x12312000 = .ok (.mul 3 1 2) := by decide +kernel

theorem witness_DecodeFollowsOpcodeMap :
    0x12312000#32 &&& Mnemonic.mul.mask = Mnemonic.mul.pat ∧ decode 0x12312000 = .ok (.mul 3 1 2) ∧
    ∀ m : Mnemonic, 0x55000000#32 &&& m.mask ≠ m.pat :=
  ⟨by decide +kernel, by decide +kernel, fun m => by cases m <;> decide +kernel⟩

theorem witness_IllegalWordRaisesIllegalCommand :
    (∀ m : Mnemonic, opByte 0x2F000000 ≠ m.opcode) ∧
    (opByte 0x10000001 = Mnemonic.add.opcode ∧ 0x10000001#32 &&& Mnemonic.add.mask ≠ Mnemonic.add.pat) ∧
    (opByte 0x12423000 = Mnemonic.mul.opcode ∧ 0x12423000#32 &&& Mnemonic.mul.mask ≠ Mnemonic.mul.pat) ∧
    ((busyWith w8 0x12423000 []).phase = .busy 0x12423000 ∧ (busyWith w8 0x12423000 []).turn = .engine ∧
      decode 0x12423000 = .error .wideSlot) :=
  ⟨fun m => by cases m <;> decide +kernel, by decide +kernel, by decide +kernel, rfl, rfl, by decide +kernel⟩

theorem witness_LiExpansionLoadsConstant :
    (-2 ^ 63 ≤ (-2 ^ 63 : Int) ∧ (-2 ^ 63 : Int) < 2 ^ 64) ∧
    (-2 ^ 63 ≤ (2 ^ 64 - 1 : Int) ∧ (2 ^ 64 - 1 : Int) < 2 ^ 64) := by decide +kernel

theorem witness_DivModResults : w8.readV 2 ≠ 0 ∧ w8.readV 0 = 0 := by decide +kernel

theorem witness_LogicIsLanewise :
    7 < w8.nwords ∧ (∃ t, exec (.and 0 1 2) w8 = .next t) ∧ (∃ t, exec (.or 0 1 2) w8 = .next t) ∧
    (∃ t, exec (.xor 0 1 2) w8 = .next t) ∧ ∃ t, exec (.not 0 1) w8 = .next t :=
  ⟨by decide +kernel, ⟨_, rfl⟩, ⟨_, rfl⟩, ⟨_, rfl⟩, ⟨_, rfl⟩⟩

theorem witness_ShiftResults :
    w8.width ≤ (w8.readS 3).toNat ∧ ¬ w8.width ≤ (w8.readS 4).toNat ∧ w8.width ≤ (512#16 : Imm16).toNat := by
  decide +kernel

theorem witness_BitAccessResults :
    ((w8.readS 4).toInt = (511 : Nat) ∧ 511 < w8.width) ∧ (w8.readS 2).toInt < 0 ∧
    (w8.width : Int) ≤ (w8.readS 3).toInt := by decide +kernel

theorem witness_CounterResults : w8.readV 0 = 0 ∧ w8.readV 3 ≠ 0 := by decide +kernel

theorem witness_ThreeWayCompareResults :
    w8.readV 1 < w8.readV 2 ∧ w8.readV 1 = w8.readV 1 ∧ w8.readV 1 < w8.readV 3 := by decide +kernel

theorem witness_FromWordsResult :
    ((wBuf.readS 1).toNat + 8 * (wBuf.readS 4).toNat ≤ 4096 ∧
      ∀ i, i < 8 * min (wBuf.readS 4).toNat wBuf.nwords → wBuf.buf.byteAt ((wBuf.readS 1).toNat + i) ≠ none) ∧
    ¬ (wBuf.readS 7).toNat + 8 * (wBuf.readS 4).toNat ≤ 4096 := by decide +kernel

theorem witness_FromLittleEndianResult :
    ((wBuf.readS 1).toNat + (wBuf.readS 2).toNat ≤ 4096 ∧
      ∀ i, i < min (wBuf.readS 2).toNat (8 * wBuf.nwords) → wBuf.buf.byteAt ((wBuf.readS 1).toNat + i) ≠ none) ∧
    ¬ (wBuf.readS 1).toNat + (wBuf.readS 3).toNat ≤ 4096 := by decide +kernel

theorem witness_FromBigEndianResult :
    ((wBuf.readS 1).toNat + (wBuf.readS 2).toNat ≤ 4096 ∧
      ∀ i, i < min (wBuf.readS 2).toNat (8 * wBuf.nwords) →
        wBuf.buf.byteAt ((wBuf.readS 1).toNat + ((wBuf.readS 2).toNat - 1 - i)) ≠ none) ∧
    ¬ (wBuf.readS 1).toNat + (wBuf.readS 3).toNat ≤ 4096 ∧ (wBuf.readS 2).toNat ≤ 8 * wBuf.nwords := by decide +kernel

theorem witness_ExportResults :
    (wBuf.readS 1).toNat + 8 * wBuf.nwords ≤ 4096 ∧ ¬ (wBuf.readS 7).toNat + 8 * wBuf.nwords ≤ 4096 := by decide +kernel

/-- V and P 0, so the strings have 1, 3 and 1 characters; they end at 4096, and one byte past it. -/
theorem witness_RenderResults :
    (4095 + (decimalNumeral (State.reset.readV 0)).length ≤ 4096 ∧
      ¬ 4096 + (decimalNumeral (State.reset.readV 0)).length ≤ 4096) ∧
    (4093 + (hexNumeral (State.reset.readV 0)).length ≤ 4096 ∧
      ¬ 4094 + (hexNumeral (State.reset.readV 0)).length ≤ 4096) ∧
    (4095 + (decimalNumeral (State.reset.readP 0)).length ≤ 4096 ∧
      ¬ 4096 + (decimalNumeral (State.reset.readP 0)).length ≤ 4096) := by decide +kernel

theorem witness_ScalarBufferResults :
    ((wBuf.readS 5).toNat + 8 ≤ 4096 ∧ ∀ i, i < 8 → wBuf.buf.byteAt ((wBuf.readS 5).toNat + i) ≠ none) ∧
    ¬ (wBuf.readS 6).toNat + 8 ≤ 4096 := by decide +kernel

theorem witness_LongDivComputesQuotientAndRemainder : 2 ^ 512 - 1 < 2 ^ 512 ∧ 0 < 7 := by decide +kernel

theorem witness_DivSmallComputesQuotientAndRemainder :
    1 ≤ 2 ^ 32 - 1 ∧ 2 ^ 32 - 1 < 2 ^ 32 ∧ ∀ w ∈ [5, 2 ^ 64 - 1], w < 2 ^ 64 := by decide +kernel

theorem witness_DecStringIsDecimalNumeral :
    2 ^ 64 - 1 < 2 ^ (64 * 1) ∧ 2 ^ 512 - 1 < 2 ^ 512 ∧ 2 ^ 1024 - 1 < 2 ^ 1024 ∧ 2 ^ 2048 - 1 < 2 ^ 2048 := by
  decide +kernel

theorem witness_HexStringIsHexNumeral : 2 ^ 512 - 1 < 2 ^ (64 * 8) ∧ 2 ^ 1024 - 1 < 2 ^ 1024 := by decide +kernel

theorem witness_CodecRoundTrips :
    ((wBuf.readS 1).toNat + 8 * wBuf.nwords ≤ 4096 ∧ (wBuf.readS 4).toNat = wBuf.nwords ∧
      (wBuf.readS 2).toNat = 8 * wBuf.nwords) ∧
    (wBuf.readS 1).toNat + (decimalNumeral (wBuf.readS 0).toNat).length ≤ 4096 := by decide +kernel

theorem witness_EveryCommandCompletesWithinItsFrame :
    Completes (.div 0 1 2) w8 ∧ Completes (.fromle 0 1 2) wBuf ∧ Completes (.tole 1 1) w8 ∧ Completes .nop w8 :=
  ⟨⟨fun _ h => (by cases h; decide +kernel), trivial, trivial, trivial⟩,
    ⟨fun _ h => (by cases h), (show wBuf.natS 1 + wBuf.natS 2 ≤ 4096 by decide +kernel),
      show ∀ k, k < min (wBuf.natS 2) wBuf.valueBytes → wBuf.buf.byteAt (wBuf.natS 1 + k) ≠ none by decide +kernel, trivial⟩,
    ⟨fun _ h => (by cases h), trivial, trivial, show w8.natS 1 + w8.valueBytes ≤ 4096 by decide +kernel⟩,
    ⟨fun _ h => (by cases h), trivial, trivial, trivial⟩⟩

theorem witness_ErrorsArePrecise :
    Meets (.div 0 1 4) w8 .divisionByZero ∧ Meets (.lds 0 6) wBuf .bufferRange ∧ Meets (.tole 1 7) wBuf .bufferRange ∧
    ∃ t, exec (.div 0 1 4) w8 = .next t :=
  ⟨fun h => h 4 rfl (by decide +kernel),
    .inl (show ¬ wBuf.natS 6 + 8 ≤ 4096 by decide +kernel),
    .inr (show ¬ wBuf.natS 7 + wBuf.valueBytes ≤ 4096 by decide +kernel), _, rfl⟩

theorem witness_CommandsStopOnlyOnUnwrittenBytes : exec (.lds 0 0) State.reset = .fault .unwrittenByte := rfl

theorem witness_OnlyListedCommandsWriteEachFile :
    (∃ t, exec .nop w8 = .next t) ∧ (∃ t, exec (.cmp 0 1 2) w8 = .next t) ∧ (∃ t, exec (.add 0 1 2) w8 = .next t) ∧
    (Instr.cmp 0 1 2).mnemonic ∉ ([.mov, .zero, .one, .maxv, .add, .sub, .div, .mod, .plo, .phi, .and, .or, .xor, .not,
      .shl, .shr, .shli, .shri, .setbit, .clrbit, .flipbit, .min, .max, .froms, .fromw, .fromle, .frombe] :
      List Mnemonic) ∧
    (Instr.add 0 1 2).mnemonic ≠ .mul ∧
    (Instr.add 0 1 2).mnemonic ∉ ([.pisz, .bit, .clz, .ctz, .popc, .eq, .ne, .lt, .le, .gt, .ge, .cmp, .isodd, .iseven,
      .dec, .hex, .pdec, .sli, .sshi, .lds, .smov] : List Mnemonic) ∧
    (Instr.cmp 0 1 2).mnemonic ∉ ([.tow, .tole, .tobe, .dec, .hex, .pdec, .sts] : List Mnemonic) :=
  ⟨⟨_, rfl⟩, ⟨_, rfl⟩, ⟨_, rfl⟩, by decide, by decide, by decide, by decide⟩

/-- Two states that differ in a register and in a `BUF` byte (4031) that FROMLE v0, s1, s2 does not read. -/
theorem witness_ResultDependsOnlyOnSources :
    let s := wBuf
    let s' := (wBuf.writeV 5 77).storeBytes 4031 [1]
    s.inst = s'.inst ∧ (∀ r ∈ (Instr.fromle 0 1 2).srcV, s.readV r = s'.readV r) ∧
    (∀ r ∈ (Instr.fromle 0 1 2).srcP, s.readP r = s'.readP r) ∧
    (∀ r ∈ (Instr.fromle 0 1 2).srcS, s.readS r = s'.readS r) ∧
    (∀ a, inRegion a (usedRegion s (.fromle 0 1 2)) → s.buf.byteAt a = s'.buf.byteAt a) ∧ Completes (.fromle 0 1 2) s ∧
    s.buf.byteAt 4031 ≠ s'.buf.byteAt 4031 :=
  ⟨rfl, by decide +kernel, by decide +kernel, by decide +kernel,
    fun a h => same_used a (show wBuf.natS 1 ≤ a ∧ a < wBuf.natS 1 + min (wBuf.natS 2) wBuf.valueBytes from h),
    witness_EveryCommandCompletesWithinItsFrame.2.1, by decide +kernel⟩
where
  same_used (a : Nat) (h : wBuf.natS 1 ≤ a ∧ a < wBuf.natS 1 + min (wBuf.natS 2) wBuf.valueBytes) :
      wBuf.buf.byteAt a = ((wBuf.writeV 5 77).storeBytes 4031 [1]).buf.byteAt a := by
    have h1 : wBuf.natS 1 = 4032 := by decide +kernel
    exact (byteAt_setBytes_outside (a := 4031) (bs := [1]) fun hc => by simp at hc; omega).symm

theorem witness_StepRunsDecodedCommand :
    (busyWith w8 0x10123000 [.engine]).phase = .busy 0x10123000 ∧ (busyWith w8 0x10123000 [.engine]).turn = .engine ∧
    (busyWith w8 0x10123000 []).turn = .engine ∧ decode 0x10123000 = .ok (.add 1 2 3) :=
  ⟨rfl, rfl, rfl, by decide +kernel⟩

theorem witness_StepRecordsError :
    (busyWith w8 0x13014000 []).phase = .busy 0x13014000 ∧ (busyWith w8 0x13014000 []).turn = .engine ∧
    decode 0x13014000 = .ok (.div 0 1 4) ∧ Meets (.div 0 1 4) (busyWith w8 0x13014000 []) .divisionByZero :=
  ⟨rfl, rfl, by decide +kernel, fun h => h 4 rfl (by decide +kernel)⟩

theorem witness_CommandWriteAcceptsOrDiscards :
    (HostTurnIdle (asks w8 [.write 0x00C .word 5]) ∧ (asks w8 [.write 0x00C .word 5]).err = false) ∧
    (HostTurnIdle (asks afterError [.write 0x00C .word 5]) ∧ (asks afterError [.write 0x00C .word 5]).err = true) :=
  ⟨⟨idle_host_turn _ _ rfl, rfl⟩, ⟨idle_host_turn _ _ rfl, rfl⟩⟩

theorem witness_StatusWriteClears :
    (asks afterError [.write 0x010 .word 6]).turn = .host ∧
    (asks (busyWith w8 0x10123000 []) [.write 0x010 .word 6]).turn = .host := ⟨rfl, rfl⟩

/-- The three clauses: each exempt read, a STATUS write, and two held accesses, one of them a host bus error. -/
theorem witness_BusyHoldsHostAccesses :
    let b (a : HostAccess) : State := asks (busyWith w8 0x10123000 []) [a]
    (∀ a, (b a).phase = .busy 0x10123000 ∧ (b a).turn = .host ∧ (b a).pending = [a]) ∧
    (∀ o ∈ ([0x000, 0x004, 0x008, 0x010] : List HostOffset), PerformedAtOnce (.read o .word)) ∧
    PerformedAtOnce (.write 0x010 .word 6) ∧ ¬ PerformedAtOnce (.read 0x1FFF .byte) ∧
    ¬ PerformedAtOnce (.read 0x010 .byte) :=
  ⟨fun _ => ⟨rfl, rfl, rfl⟩, fun _ h => .inl (by simpa using h), .inr ⟨6, rfl⟩, by simp [PerformedAtOnce],
    by simp [PerformedAtOnce]⟩

theorem witness_ControlReadsReturn :
    HostTurnIdle (asks w8 [.read 0x01C .word]) ∧ HostTurnIdle (asks afterError [.read 0x014 .word]) ∧
    (0x000 : HostOffset).toNat % 4 = 0 ∧ (0x01C : HostOffset).toNat % 4 = 0 ∧ (0xFFC : HostOffset).toNat % 4 = 0 ∧
    (0xFFC : HostOffset).toNat < 0x1000 ∧ 0x020 ≤ (0xFFC : HostOffset).toNat ∧
    (asks w8 [.read 0x014 .word]).errcause = none ∧
    (asks afterError [.read 0x014 .word]).errcause = some .divisionByZero ∧
    HostTurnIdle (asks { afterError with errcause := some .illegalCommand } [.read 0x014 .word]) ∧
    HostTurnIdle (asks { afterError with errcause := some .bufferRange } [.read 0x014 .word]) :=
  ⟨idle_host_turn _ _ rfl, idle_host_turn _ _ rfl, by decide, by decide, by decide, by decide, by decide, rfl, rfl,
    idle_host_turn _ _ rfl, idle_host_turn _ _ rfl⟩

theorem witness_ReadOnlyWritesIgnored :
    HostTurnIdle (asks w8 [.write 0x000 .word 7]) ∧ HostTurnIdle (asks w8 [.write 0xFFC .word 7]) ∧
    (0xFFC : HostOffset).toNat % 4 = 0 ∧ (0xFFC : HostOffset).toNat < 0x1000 ∧ (0xFFC : HostOffset) ≠ 0x00C ∧
    (0xFFC : HostOffset) ≠ 0x010 ∧ (0x000 : HostOffset) ≠ 0x00C ∧ (0x000 : HostOffset) ≠ 0x010 :=
  ⟨idle_host_turn _ _ rfl, idle_host_turn _ _ rfl, by decide, by decide, by decide, by decide, by decide, by decide⟩

theorem witness_WindowAccesses :
    (HostTurnIdle (asks wBuf [.read 0x1FFC .word]) ∧ (0x1FFC : HostOffset).toNat % AccessWidth.word.bytes = 0 ∧
      0x1000 ≤ (0x1FFC : HostOffset).toNat ∧
      ∀ k, k < AccessWidth.word.bytes → wBuf.buf.byteAt ((0x1FFC : HostOffset).toNat - 0x1000 + k) ≠ none) ∧
    (HostTurnIdle (asks w8 [.write 0x1000 .byte 7]) ∧ (0x1000 : HostOffset).toNat % AccessWidth.byte.bytes = 0) :=
  ⟨⟨idle_host_turn _ _ rfl, by decide, by decide, by decide +kernel⟩, idle_host_turn _ _ rfl, by decide⟩

theorem witness_BadHostAccessRefused :
    (HostTurnIdle (asks w8 [.read 0x1FFE .word]) ∧ BusError (.read 0x1FFE .word)) ∧
    (HostTurnIdle (asks w8 [.write 0x010 .byte 2]) ∧ BusError (.write 0x010 .byte 2)) ∧
    step (asks State.reset [.write 0x010 .byte 2]) = .refused .hostBusError :=
  ⟨⟨idle_host_turn _ _ rfl, .inl (by decide)⟩, ⟨idle_host_turn _ _ rfl, .inr (by decide)⟩, rfl⟩

theorem witness_IdleBlockKeepsState : HostTurnIdle (asks w8 []) ∧ (asks w8 []).pending = [] :=
  ⟨idle_host_turn _ _ rfl, rfl⟩

theorem witness_ResetLeavesControlState :
    ({ busyWith w8 0x10123000 [.reset .aborted] with pending := [.read 0x01C .word] } : State).turn = .reset .aborted ∧
    (busyWith w8 0x10123000 [.reset (.completed 9)]).turn = .reset (.completed 9) := ⟨rfl, rfl⟩

/-- A reset while BUSY with an exempt access, a held read, a held write and a held host bus error; and while IDLE. -/
theorem witness_ResetSettlesOnlyHeldAccesses :
    let b (f : HeldFate) (a : HostAccess) : State := { busyWith w8 0x10123000 [.reset f] with pending := [a] }
    (∀ f a, (b f a).turn = .reset f ∧ (b f a).isBusy = true ∧ (b f a).pending = [a]) ∧
    ({ w8 with schedule := [.reset .aborted] } : State).isBusy = false ∧ PerformedAtOnce (.read 0x000 .word) ∧
    (¬ PerformedAtOnce (.read 0x01C .word) ∧ ¬ BusError (.read 0x01C .word)) ∧
    (¬ PerformedAtOnce (.write 0x00C .word 5) ∧ ¬ BusError (.write 0x00C .word 5)) ∧
    (¬ PerformedAtOnce (.read 0x1001 .half) ∧ BusError (.read 0x1001 .half)) :=
  ⟨fun _ _ => ⟨rfl, rfl, rfl⟩, rfl, .inl (by decide), ⟨by simp [PerformedAtOnce], fun h => by revert h; unfold BusError; decide⟩,
    ⟨by simp [PerformedAtOnce], fun h => by revert h; unfold BusError; decide⟩,
    ⟨by simp [PerformedAtOnce], .inl (by decide)⟩⟩

theorem witness_InstanceIsFixed : ∃ t, step (busyWith w8 0x00000000 []) = .next t := ⟨_, rfl⟩

theorem witness_CmdcountCountsAcceptedCommands :
    ((∀ fate, (asks w8 [.write 0x00C .word 5]).turn ≠ .reset fate) ∧
      (∃ t, step (asks w8 [.write 0x00C .word 5]) = .next t) ∧
      ∃ c rest, (asks w8 [.write 0x00C .word 5]).phase = .idle ∧ (asks w8 [.write 0x00C .word 5]).err = false ∧
        (asks w8 [.write 0x00C .word 5]).pending = .write 0x00C .word c :: rest) ∧
    ((∃ t, step (asks afterError [.write 0x00C .word 5]) = .next t) ∧
      ¬ ∃ c rest, (asks afterError [.write 0x00C .word 5]).phase = .idle ∧
        (asks afterError [.write 0x00C .word 5]).err = false ∧
        (asks afterError [.write 0x00C .word 5]).pending = .write 0x00C .word c :: rest) :=
  ⟨⟨fun _ h => (by cases h), ⟨_, rfl⟩, 5, [], rfl, rfl, rfl⟩, ⟨_, rfl⟩, fun ⟨_, _, _, h, _⟩ => by cases h⟩

theorem witness_ErrorRecordWrittenOnlyAtErrorEntry :
    (∀ fate, (busyWith w8 0x13014000 []).turn ≠ .reset fate) ∧
    goesOn (step (busyWith w8 0x13014000 [])) (fun t => t.errcause == some .divisionByZero) = true :=
  ⟨fun _ h => (by cases h), by decide +kernel⟩

/-- A state after an error that meets the invariant. -/
theorem witness_InvariantKeptByEveryStep :
    (asks afterError [.write 0x00C .word 5]).Inv ∧ ∃ t, step (asks afterError [.write 0x00C .word 5]) = .next t :=
  ⟨⟨rfl, fun h => (by cases h), fun _ h => (by cases h), fun h => (by cases h), fun e h => by
    cases h
    exact ⟨0, 1, 2, .inl (by decide +kernel)⟩⟩, _, rfl⟩

theorem witness_BusyEnds :
    (busyWith w8 0x10123000 [.host, .host]).isBusy = true ∧
    ∀ fate, Turn.reset fate ∉ (busyWith w8 0x10123000 [.host, .host]).schedule :=
  ⟨rfl, fun fate => by simp [busyWith]⟩

end Sys2Proof.Tests
end

/-! PROOFS. The family of 00_scope.md: what a command that goes on makes of the state, said once for all 54 commands,
and that no step changes the instance (R6). -/

namespace Sys2Proof.Machine

/-- Everything the execution of a decoded command can make of a state: nothing, one register written, bytes stored
inside `BUF` (for a string command its length written to a scalar register too), or the entry of an error it meets. -/
inductive CommandEffect (i : Instr) (s : State) : State → Prop where
  | unchanged : CommandEffect i s s
  | value (r : VReg) (x : Nat) : CommandEffect i s (s.writeV r x)
  | wide (r : PReg) (x : Nat) : CommandEffect i s (s.writeP r x)
  | scalar (r : SReg) (x : Scalar) : CommandEffect i s (s.writeS r x)
  | stored (a : Nat) (bs : List Byte) (inside : a + bs.length ≤ 4096) : CommandEffect i s (s.storeBytes a bs)
  | rendered (a : Nat) (bs : List Byte) (inside : a + bs.length ≤ 4096) (r : SReg) (x : Scalar) :
      CommandEffect i s ((s.storeBytes a bs).writeS r x)
  | error (e : ErrorCause) (met : Meets i s e) : CommandEffect i s (s.errorEntry e (encode i))

section
variable {i : Instr} {s t : State}

/-- A command that reads a region of `BUF`: the effect of its continuation, or the range error of the region. -/
theorem readRegion_effect {addr n skip len : Nat} {k : List Byte → State}
    (hregion : namedRegion s i = some (addr, n)) (hk : ∀ bytes, CommandEffect i s (k bytes))
    (h : readRegion (encode i) s addr n skip len k = .next t) : CommandEffect i s t := by
  rcases readRegion_cases (encode i) s addr n skip len k with ⟨hout, e⟩ | ⟨-, bytes, -, e⟩ | ⟨-, -, e⟩ <;>
    rw [e] at h <;> cases h
  · exact .error .bufferRange (.inl (by rw [hregion]; exact hout))
  · exact hk bytes

/-- A command that writes a region of `BUF`: the effect of what follows the store, or the range error of the region. -/
theorem writeRegion_effect {addr : Nat} {bytes : List Byte} {k : State → State}
    (hregion : storedRegion s i = some (addr, bytes.length))
    (hk : addr + bytes.length ≤ 4096 → CommandEffect i s (k (s.storeBytes addr bytes)))
    (h : writeRegion (encode i) s addr bytes k = .next t) : CommandEffect i s t := by
  rcases writeRegion_cases (encode i) s addr bytes k with ⟨hout, e⟩ | ⟨hin, e⟩ <;> rw [e] at h <;> cases h
  · exact .error .bufferRange (.inr (by rw [hregion]; exact hout))
  · exact hk hin

/-- A string command stores its string and its length, or meets the range error. -/
theorem renderTo_effect {sd : SReg} {addr : Nat} {str : List Byte}
    (hregion : storedRegion s i = some (addr, str.length))
    (h : renderTo (encode i) sd addr str s = .next t) : CommandEffect i s t :=
  writeRegion_effect hregion (fun hin => .rendered addr str hin sd _) h

/-- A command that divides writes its result, or meets the division by zero. -/
theorem divideBy_effect {f : Nat → Nat → Nat} {vd va vb : VReg} (hdivisor : divisorOf i = some vb)
    (h : divideBy (encode i) f vd va vb s = .next t) : CommandEffect i s t := by
  rcases divideBy_cases (encode i) f vd va vb s with ⟨hzero, e⟩ | ⟨-, e⟩ <;> rw [e] at h <;> cases h
  · exact .error .divisionByZero fun hok => hok vb hdivisor hzero
  · exact .value vd _

/-- A command that changes one bit writes one value register. -/
theorem changeBit_effect {f : Nat → Nat → Nat} {vd va : VReg} {sb : SReg} (h : changeBit f vd va sb s = .next t) :
    CommandEffect i s t := by
  rw [changeBit_eq] at h
  cases h
  exact .value vd _

/-- Reading one bit writes one scalar register, at an index inside the value and outside it. -/
theorem execBit_effect {sd : SReg} {va : VReg} {sb : SReg} (h : execBit sd va sb s = .next t) : CommandEffect i s t := by
  unfold execBit at h
  cases hb : s.bitPosition? sb <;> rw [hb] at h <;> cases h <;> exact .scalar sd _

/-- THE EFFECT OF EVERY COMMAND that goes on, by the shape of its meaning. -/
theorem exec_effect (h : exec i s = .next t) : CommandEffect i s t := by
  cases i with
  | nop => cases h; exact .unchanged
  | mov | zero | one | maxv | add | sub | plo | phi | and | or | xor | not | shl | shr | shli | shri | min | max
  | froms => cases h; exact .value _ _
  | mul => cases h; exact .wide _ _
  | pisz | clz | ctz | popc | eq | ne | lt | le | gt | ge | cmp | isodd | iseven | sli | sshi | smov =>
    cases h; exact .scalar _ _
  | bit => exact execBit_effect h
  | setbit | clrbit | flipbit =>
    simp only [exec, execSetbit, execClrbit, execFlipbit] at h
    exact changeBit_effect h
  | div | mod => exact divideBy_effect rfl h
  | fromw | fromle | frombe => exact readRegion_effect rfl (fun _ => .value _ _) h
  | lds => exact readRegion_effect rfl (fun _ => .scalar _ _) h
  | tow | tole | tobe => exact writeRegion_effect (by simp [storedRegion]) (fun hin => .stored _ _ hin) h
  | sts => exact writeRegion_effect rfl (fun hin => .stored _ _ hin) h
  | dec | hex | pdec => exact renderTo_effect rfl h

/-- No effect touches the instance, the engine, CMDCOUNT, DROP or the agents outside the block. -/
theorem CommandEffect.sameControl (h : CommandEffect i s t) : SameControl s t := by
  cases h with
  | unchanged => exact sameControl_refl s
  | value r x => exact sameControl_writeV s r x
  | wide r x => exact sameControl_writeP s r x
  | scalar r x => exact (onlyWritesS_writeS s r x).control
  | stored a bs => exact (onlyWrites_storeBytes s a bs).control
  | rendered a bs _ r x => exact ⟨rfl, rfl, rfl, rfl, rfl, rfl, rfl, rfl⟩
  | error e => exact (errorEntry_taken e _ s).control

/-- The execution of an accepted word, legal or illegal, touches none of them either: BUSY falls at its completion. -/
theorem executeWord_sameControl {c : Word32} (h : executeWord c s = .next t) : SameControl s t := by
  unfold executeWord at h
  cases hd : decode c with
  | ok i => rw [hd] at h; exact (exec_effect h).sameControl
  | error _ => rw [hd] at h; cases h; exact (errorEntry_taken .illegalCommand c s).control

theorem engineMoves_inst {c : Word32} (h : engineMoves c s = .next t) : t.inst = s.inst := by
  obtain ⟨u, hu, rfl⟩ := completeResult_eq_next.1 h
  exact (executeWord_sameControl hu).inst

/-! ## The host port leaves V and P alone -/

@[simp] theorem issue_files (c : Word32) : (s.issue c).files = s.files := by
  rcases issue_cases s c with ⟨-, e⟩ | ⟨-, e⟩ <;> simp [e]

@[simp] theorem writeControl_files (o : Nat) (d : Word32) : (s.writeControl o d).files = s.files := by
  rcases writeControl_cases s o d with ⟨-, e⟩ | ⟨-, e⟩ | ⟨-, -, e⟩ <;> simp [e]

theorem hostRead_files {o : HostOffset} {w : AccessWidth} (h : s.hostRead o w = .next t) : t.files = s.files := by
  rcases hostRead_cases s o w with ⟨-, e⟩ | ⟨-, -, e⟩ | ⟨-, -, _, -, e⟩ | ⟨-, -, -, e⟩ <;> rw [e] at h <;> cases h <;> rfl

theorem hostWrite_files {o : HostOffset} {w : AccessWidth} {d : Word32} (h : s.hostWrite o w d = .next t) :
    t.files = s.files := by
  rcases hostWrite_cases s o w d with ⟨-, e⟩ | ⟨-, -, e⟩ | ⟨-, -, e⟩ <;> rw [e] at h <;> cases h
  · exact writeControl_files o.toNat d
  · rfl

theorem perform_files {a : HostAccess} (h : s.perform a = .next t) : t.files = s.files := by
  cases a with
  | read o w => exact hostRead_files h
  | write o w d => exact hostWrite_files h

theorem hostMoves_files (h : s.hostMoves = .next t) : t.files = s.files := by
  unfold State.hostMoves at h
  cases hp : s.pending with
  | nil => rw [hp] at h; cases h; rfl
  | cons a rest => rw [hp] at h; exact (perform_files h).trans rfl

/-! ## The step -/

/-- The platform's reset leaves V and P unspecified, at the widths the block was built with. -/
@[simp] theorem inst_platformReset (fate : HeldFate) : (s.platformReset fate).inst = s.inst :=
  Files.inst_afterReset s.files s.resets

theorem step_inst (h : step s = .next t) : t.inst = s.inst := by
  rcases step_cases s with ⟨fate, -, e⟩ | ⟨-, e⟩ | ⟨c, -, e⟩ <;> rw [e] at h
  · cases h
    exact inst_platformReset fate
  · exact (congrArg Files.inst (hostMoves_files h)).trans (inst_takeTurn s)
  · exact (engineMoves_inst h).trans (inst_takeTurn s)

end

/-- Settles O54: the reset keeps the width, the host's access keeps V and P, and every effect of a command keeps the
instance. -/
theorem instanceIsFixed : Obligations.InstanceIsFixed := fun _ _ h => step_inst h

end Sys2Proof.Machine

/-! PROOFS. The family of 10_state.md: the accepted word is the encoding of its command, the frame of every command,
what a performed host access makes of the state, and the invariant of the machine. -/

/-! ## The word of a decoded command (30_encoding.md R71 to R77) -/

namespace Sys2Proof

theorem opcode_of_mnemonicOf {op : BitVec 8} {m : Mnemonic} (h : mnemonicOf op = some m) : m.opcode = op := by
  unfold mnemonicOf at h
  split at h <;> cases h <;> exact BitVec.eq_of_toNat_eq (Eq.symm ‹_›)

section
variable {m : Mnemonic} {c : Word32} {i : Instr} {d a b : BitVec 4} {x : Imm16}

/-- A word whose low bits are 0 is laid out from its opcode and its three slots. -/
theorem slotsWord_eq (hop : m.opcode = opByte c) (hd : slotD c = d) (ha : slotA c = a) (hb : slotB c = b)
    (hlow : lowBits c = 0) : slotsWord m d a b = c := by
  subst hd ha hb
  unfold slotsWord
  rw [hop, show (0#12 : BitVec 12) = lowBits c from hlow.symm]
  unfold opByte slotD slotA slotB lowBits
  repeat rw [BitVec.extractLsb'_append_extractLsb'_eq_extractLsb' (by rfl)]
  exact BitVec.extractLsb'_eq_self

/-- Every word is laid out from its opcode, its upper two slots and its immediate. -/
theorem immWord_eq (hop : m.opcode = opByte c) (hd : slotD c = d) (ha : slotA c = a) (hx : immField c = x) :
    immWord m d a x = c := by
  subst hd ha hx
  unfold immWord
  rw [hop]
  unfold opByte slotD slotA immField
  repeat rw [BitVec.extractLsb'_append_extractLsb'_eq_extractLsb' (by rfl)]
  exact BitVec.extractLsb'_eq_self

/-! What each format has checked of a word that decodes (R73). -/

theorem formatN_eq_ok {k : Except Illegal Instr} (h : formatN c k = .ok i) :
    (slotD c = 0 ∧ slotA c = 0 ∧ slotB c = 0 ∧ lowBits c = 0) ∧ k = .ok i := by
  unfold formatN at h
  split at h
  · exact ⟨‹_›, h⟩
  · cases h

theorem formatR1_eq_ok {k : BitVec 4 → Except Illegal Instr} (h : formatR1 c k = .ok i) :
    (slotA c = 0 ∧ slotB c = 0 ∧ lowBits c = 0) ∧ k (slotD c) = .ok i := by
  unfold formatR1 at h
  split at h
  · exact ⟨‹_›, h⟩
  · cases h

theorem formatR2_eq_ok {k : BitVec 4 → BitVec 4 → Except Illegal Instr} (h : formatR2 c k = .ok i) :
    (slotB c = 0 ∧ lowBits c = 0) ∧ k (slotD c) (slotA c) = .ok i := by
  unfold formatR2 at h
  split at h
  · exact ⟨‹_›, h⟩
  · cases h

theorem formatR3_eq_ok {k : BitVec 4 → BitVec 4 → BitVec 4 → Except Illegal Instr} (h : formatR3 c k = .ok i) :
    lowBits c = 0 ∧ k (slotD c) (slotA c) (slotB c) = .ok i := by
  unfold formatR3 at h
  split at h
  · exact ⟨‹_›, h⟩
  · cases h

theorem formatS2_eq_ok {k : BitVec 4 → BitVec 4 → Except Illegal Instr} (h : formatS2 c k = .ok i) :
    (slotD c = 0 ∧ lowBits c = 0) ∧ k (slotA c) (slotB c) = .ok i := by
  unfold formatS2 at h
  split at h
  · exact ⟨‹_›, h⟩
  · cases h

theorem formatI1_eq_ok {k : BitVec 4 → Imm16 → Except Illegal Instr} (h : formatI1 c k = .ok i) :
    slotA c = 0 ∧ k (slotD c) (immField c) = .ok i := by
  unfold formatI1 at h
  split at h
  · exact ⟨‹_›, h⟩
  · cases h

/-- A slot that is accepted as a wide index is that index laid in its slot (R72). -/
theorem wideIndex_eq_ok {k : PReg → Except Illegal Instr} (h : wideIndex d k = .ok i) :
    ∃ p, d = wideSlot p ∧ k p = .ok i := by
  unfold wideIndex at h
  split at h
  next htop =>
    refine ⟨_, ?_, h⟩
    unfold wideSlot
    rw [← htop, BitVec.extractLsb'_append_extractLsb'_eq_extractLsb' (by rfl)]
    exact BitVec.extractLsb'_eq_self.symm
  next => cases h

/-- The fields a row reads and the bits it checks make up the whole word, format by format. -/
theorem encode_of_decodeAs (hop : m.opcode = opByte c) (h : decodeAs m c = .ok i) : encode i = c := by
  unfold decodeAs at h
  cases m with
  | nop =>
    obtain ⟨⟨hd, ha, hb, hlow⟩, hk⟩ := formatN_eq_ok h
    cases hk
    exact slotsWord_eq hop hd ha hb hlow
  | zero | one | maxv =>
    obtain ⟨⟨ha, hb, hlow⟩, hk⟩ := formatR1_eq_ok h
    cases hk
    exact slotsWord_eq hop rfl ha hb hlow
  | mov | not | clz | ctz | popc | isodd | iseven | froms | lds | smov =>
    obtain ⟨⟨hb, hlow⟩, hk⟩ := formatR2_eq_ok h
    cases hk
    exact slotsWord_eq hop rfl rfl hb hlow
  | plo | phi | pisz =>
    obtain ⟨⟨hb, hlow⟩, hk⟩ := formatR2_eq_ok h
    obtain ⟨p, hp, hk⟩ := wideIndex_eq_ok hk
    cases hk
    exact slotsWord_eq hop rfl hp hb hlow
  | add | sub | div | mod | and | or | xor | shl | shr | bit | setbit | clrbit | flipbit | eq | ne | lt | le | gt | ge
  | cmp | min | max | fromw | fromle | frombe | dec | hex =>
    obtain ⟨hlow, hk⟩ := formatR3_eq_ok h
    cases hk
    exact slotsWord_eq hop rfl rfl rfl hlow
  | mul =>
    obtain ⟨hlow, hk⟩ := formatR3_eq_ok h
    obtain ⟨p, hp, hk⟩ := wideIndex_eq_ok hk
    cases hk
    exact slotsWord_eq hop hp rfl rfl hlow
  | pdec =>
    obtain ⟨hlow, hk⟩ := formatR3_eq_ok h
    obtain ⟨p, hp, hk⟩ := wideIndex_eq_ok hk
    cases hk
    exact slotsWord_eq hop rfl hp rfl hlow
  | tow | tole | tobe | sts =>
    obtain ⟨⟨hd, hlow⟩, hk⟩ := formatS2_eq_ok h
    cases hk
    exact slotsWord_eq hop hd rfl rfl hlow
  | sli | sshi =>
    obtain ⟨ha, hk⟩ := formatI1_eq_ok h
    cases hk
    exact immWord_eq hop rfl ha rfl
  | shli | shri =>
    cases h
    exact immWord_eq hop rfl rfl rfl

/-- A word that decodes to a command is the encoding of that command. -/
theorem encode_of_decode (h : decode c = .ok i) : encode i = c := by
  unfold decode at h
  cases hm : mnemonicOf (opByte c) with
  | none => rw [hm] at h; cases h
  | some m => rw [hm] at h; exact encode_of_decodeAs (opcode_of_mnemonicOf hm) h

end
end Sys2Proof

namespace Sys2Proof.Machine

section
variable {i : Instr} {s t : State} {c : Word32} {e : ErrorCause} {a : HostAccess} {rest : List HostAccess}

/-! ## Which command records which cause (60_exceptions.md R300) -/

/-- The dividing commands are DIV and MOD. -/
theorem eq_div_or_mod_of_divisorOf {vb : VReg} (h : divisorOf i = some vb) :
    ∃ vd va, i = .div vd va vb ∨ i = .mod vd va vb := by
  cases i with
  | div vd va => cases h; exact ⟨vd, va, .inl rfl⟩
  | mod vd va => cases h; exact ⟨vd, va, .inr rfl⟩
  | _ => cases h

/-- The commands that name a region of `BUF` to read or to write. -/
theorem mnemonic_mem_of_region_not_ok (h : ¬ regionOk (namedRegion s i) ∨ ¬ regionOk (storedRegion s i)) :
    i.mnemonic ∈ ([.fromw, .fromle, .frombe, .tow, .tole, .tobe, .dec, .hex, .pdec, .lds, .sts] : List Mnemonic) := by
  cases i with
  | fromw | fromle | frombe | tow | tole | tobe | dec | hex | pdec | lds | sts => simp [Instr.mnemonic]
  | _ => exact (h.elim (· trivial) (· trivial)).elim

/-- The error a command meets is one that its row of R300 lists. -/
theorem Meets.raisedBy (met : Meets i s e) (hd : decode c = .ok i) : RaisedBy e c := by
  cases e with
  | divisionByZero =>
    obtain ⟨vb, hvb, -⟩ : ∃ vb, divisorOf i = some vb ∧ s.readV vb = 0 := by simpa [Meets, divisorOk] using met
    obtain ⟨vd, va, rfl | rfl⟩ := eq_div_or_mod_of_divisorOf hvb
    · exact ⟨vd, va, vb, .inl hd⟩
    · exact ⟨vd, va, vb, .inr hd⟩
  | illegalCommand => exact met.elim
  | bufferRange => exact ⟨i, hd, mnemonic_mem_of_region_not_ok met⟩

/-! ## The execution of an accepted word -/

/-- Executing an accepted word: the effect of the command it decodes to, or the entry of IllegalCommand. -/
theorem executeWord_cases (h : executeWord c s = .next t) :
    (∃ i, decode c = .ok i ∧ CommandEffect i s t) ∨
    ((∃ r, decode c = .error r) ∧ t = s.errorEntry .illegalCommand c) := by
  unfold executeWord at h
  cases hd : decode c with
  | ok i => rw [hd] at h; exact .inl ⟨i, rfl, exec_effect h⟩
  | error r => rw [hd] at h; cases h; exact .inr ⟨⟨r, rfl⟩, rfl⟩

/-- An effect of a command leaves the error record alone, or is the entry of an error the command meets. -/
theorem CommandEffect.sameErrors_or_error (h : CommandEffect i s t) :
    SameErrors s t ∨ ∃ e, Meets i s e ∧ t = s.errorEntry e (encode i) := by
  cases h with
  | unchanged | value | wide | scalar | stored | rendered => exact .inl ⟨rfl, rfl, rfl⟩
  | error e met => exact .inr ⟨e, met, rfl⟩

/-- ERROR ENTRY IS THE ONLY WRITER of the error record while a word executes: it records the accepted word and a cause
that word can raise (60_exceptions.md R304). -/
theorem executeWord_sameErrors_or_error (h : executeWord c s = .next t) :
    SameErrors s t ∨ ∃ e, RaisedBy e c ∧ t = s.errorEntry e c := by
  rcases executeWord_cases h with ⟨i, hd, heffect⟩ | ⟨hillegal, rfl⟩
  · rcases heffect.sameErrors_or_error with hsame | ⟨e, met, rfl⟩
    · exact .inl hsame
    · exact .inr ⟨e, met.raisedBy hd, by rw [encode_of_decode hd]⟩
  · exact .inr ⟨.illegalCommand, hillegal, rfl⟩

/-- Every effect of a command keeps the canonical form of `BUF`. -/
theorem CommandEffect.buf_wf (h : CommandEffect i s t) (hs : s.buf.wf = true) : t.buf.wf = true := by
  cases h with
  | unchanged | value | wide | scalar | error => exact hs
  | stored _ _ inside | rendered _ _ inside => exact setBytes_wf hs inside

theorem executeWord_buf_wf (h : executeWord c s = .next t) (hs : s.buf.wf = true) : t.buf.wf = true := by
  rcases executeWord_cases h with ⟨i, -, heffect⟩ | ⟨-, rfl⟩
  · exact heffect.buf_wf hs
  · exact hs

/-! ## What a performed host access makes of the state (20_memory.md R44, R45) -/

/-- Everything a host access that is performed can make of a state: a read answered, a command issued, STATUS written,
a write of any other control offset ignored, or bytes stored in the window. -/
inductive AccessEffect (s : State) : HostAccess → State → Prop where
  | answered (o : HostOffset) (w : AccessWidth) (v : Word32) : AccessEffect s (.read o w) (s.answer v)
  | issued (c : Word32) : AccessEffect s (.write 0x00C .word c) (s.issue c)
  | status (d : Word32) : AccessEffect s (.write 0x010 .word d) (s.writeStatus d)
  | ignored (o : HostOffset) (d : Word32) (hcmd : o ≠ 0x00C) : AccessEffect s (.write o .word d) s
  | stored (o : HostOffset) (w : AccessWidth) (d : Word32) (window : windowBase ≤ o.toNat)
      (inside : o.toNat - windowBase + (bytesOfNat w.bytes d.toNat).length ≤ 4096) :
      AccessEffect s (.write o w d) (s.storeBytes (o.toNat - windowBase) (bytesOfNat w.bytes d.toNat))

/-- Below the window an allowed access is 4 bytes wide (20_memory.md R43). -/
theorem width_eq_word {o : HostOffset} {w : AccessWidth} (ha : accessAllowed o w = true) (hlow : o.toNat < windowBase) :
    w = .word := by
  simp only [accessAllowed, Bool.and_eq_true, Bool.or_eq_true, beq_iff_eq, decide_eq_true_eq] at ha
  exact ha.2.resolve_right (by omega)

theorem hostRead_effect {o : HostOffset} {w : AccessWidth} (h : s.hostRead o w = .next t) :
    AccessEffect s (.read o w) t := by
  rcases hostRead_cases s o w with ⟨-, e⟩ | ⟨-, -, e⟩ | ⟨-, -, bytes, -, e⟩ | ⟨-, -, -, e⟩ <;>
    rw [e] at h <;> cases h
  · exact .answered o w _
  · exact .answered o w _

theorem writeControl_effect (s : State) (o : HostOffset) (d : Word32) :
    AccessEffect s (.write o .word d) (s.writeControl o.toNat d) := by
  rcases writeControl_cases s o.toNat d with ⟨ho, e⟩ | ⟨ho, e⟩ | ⟨hcmd, -, e⟩ <;> rw [e]
  · obtain rfl : o = 0x00C := BitVec.eq_of_toNat_eq ho
    exact .issued d
  · obtain rfl : o = 0x010 := BitVec.eq_of_toNat_eq ho
    exact .status d
  · exact .ignored o d fun ho => hcmd (congrArg BitVec.toNat ho)

theorem hostWrite_effect {o : HostOffset} {w : AccessWidth} {d : Word32} (h : s.hostWrite o w d = .next t) :
    AccessEffect s (.write o w d) t := by
  rcases hostWrite_cases s o w d with ⟨-, e⟩ | ⟨ha, hlow, e⟩ | ⟨ha, hw, e⟩ <;> rw [e] at h <;> cases h
  · obtain rfl := width_eq_word ha hlow
    exact writeControl_effect s o d
  · exact .stored o w d hw (by rw [bytesOfNat_length]; exact window_inside ha hw)

theorem perform_effect (h : s.perform a = .next t) : AccessEffect s a t := by
  cases a with
  | read o w => exact hostRead_effect h
  | write o w d => exact hostWrite_effect h

/-- The next access is performed on the state with that access taken from the host's list. -/
theorem hostMoves_takeTurn_eq (hp : s.pending = a :: rest) :
    s.takeTurn.hostMoves = s.afterHost.perform a := by
  unfold State.hostMoves State.afterHost
  simp [hp]

/-- The host's move: nothing with its list empty, else the effect of its next access. -/
theorem hostMoves_takeTurn_cases (h : s.takeTurn.hostMoves = .next t) :
    (s.pending = [] ∧ t = s.takeTurn) ∨ ∃ a rest, s.pending = a :: rest ∧ AccessEffect s.afterHost a t := by
  cases hp : s.pending with
  | nil =>
    unfold State.hostMoves at h
    rw [takeTurn_pending, hp] at h
    cases h
    exact .inl ⟨rfl, rfl⟩
  | cons a rest =>
    rw [hostMoves_takeTurn_eq hp] at h
    exact .inr ⟨a, rest, rfl, perform_effect h⟩

/-- No host access writes ERRCAUSE or ERRCMD (10_state.md R34, R35). -/
theorem AccessEffect.sameRecord (h : AccessEffect s a t) : t.errcause = s.errcause ∧ t.errcmd = s.errcmd := by
  cases h with
  | answered | status | ignored | stored => exact ⟨rfl, rfl⟩
  | issued c => rcases issue_cases s c with ⟨-, e⟩ | ⟨-, e⟩ <;> rw [e] <;> exact ⟨rfl, rfl⟩

/-- A host access counts in CMDCOUNT only where it is a write of CMD with ERR = 0 (10_state.md R36). -/
theorem AccessEffect.cmdcount_eq (h : AccessEffect s a t) (hno : ∀ c, a = .write 0x00C .word c → s.err = true) :
    t.cmdcount = s.cmdcount := by
  cases h with
  | answered | status | ignored | stored => rfl
  | issued c =>
    rcases issue_cases s c with ⟨herr, -⟩ | ⟨-, e⟩
    · rw [hno c rfl] at herr; cases herr
    · rw [e]; rfl

/-! ## The invariant -/

/-- The invariant passes to a state with the same error record, where `BUF` is canonical, no command executes with ERR
set, and ERR or DROP is set only where one of them was. -/
theorem State.Inv.of_sameRecord (h : s.Inv) (hbuf : t.buf.wf = true) (hbusy : t.isBusy = true → t.err = false)
    (hpending : t.err = true ∨ t.drop = true → s.err = true ∨ s.drop = true)
    (hcause : t.errcause = s.errcause) (hcmd : t.errcmd = s.errcmd) : t.Inv where
  buf := hbuf
  busy := hbusy
  cause hp := hcause ▸ h.cause (hpending hp)
  clear hnone := hcmd ▸ h.clear (hcause ▸ hnone)
  record e he := hcmd ▸ h.record e (hcause ▸ he)

/-- A command that completes with an error it can raise establishes the invariant anew. -/
theorem inv_complete_errorEntry (hbuf : s.buf.wf = true) (h : RaisedBy e c) : (s.errorEntry e c).complete.Inv where
  buf := hbuf
  busy hbusy := by simp at hbusy
  cause _ := by simp
  clear hnone := by simp at hnone
  record e' he := by cases he; exact h

/-- The execution of an accepted word keeps the invariant. -/
theorem engineMoves_inv (hs : s.Inv) (h : engineMoves c s = .next t) : t.Inv := by
  obtain ⟨u, hu, rfl⟩ := completeResult_eq_next.1 h
  have hbuf := executeWord_buf_wf hu hs.buf
  rcases executeWord_sameErrors_or_error hu with hsame | ⟨e, hraised, rfl⟩
  · refine hs.of_sameRecord hbuf (fun hbusy => by simp at hbusy) (fun hp => ?_) hsame.errcause hsame.errcmd
    simpa [hsame.err, (executeWord_sameControl hu).drop] using hp
  · exact inv_complete_errorEntry hbuf hraised

/-- Every host access that is performed keeps the invariant. -/
theorem AccessEffect.inv (hs : s.Inv) (h : AccessEffect s a t) : t.Inv := by
  cases h with
  | answered => exact hs.of_sameRecord hs.buf hs.busy id rfl rfl
  | issued c =>
    rcases issue_cases s c with ⟨herr, e⟩ | ⟨herr, e⟩ <;> rw [e]
    · exact hs.of_sameRecord hs.buf (fun _ => herr) id rfl rfl
    · exact hs.of_sameRecord hs.buf hs.busy (fun _ => .inl herr) rfl rfl
  | status d =>
    refine hs.of_sameRecord hs.buf (fun hbusy => ?_) (fun hp => ?_) rfl rfl
    · rw [writeStatus_err, hs.busy hbusy, Bool.false_and]
    · simp only [writeStatus_err, writeStatus_drop, Bool.and_eq_true] at hp
      exact hp.imp And.left And.left
  | ignored => exact hs
  | stored _ _ _ _ inside => exact hs.of_sameRecord (setBytes_wf hs.buf inside) hs.busy id rfl rfl

theorem takeTurn_inv (hs : s.Inv) : s.takeTurn.Inv := hs.of_sameRecord hs.buf hs.busy id rfl rfl

theorem afterHost_inv (hs : s.Inv) : s.afterHost.Inv := hs.of_sameRecord hs.buf hs.busy id rfl rfl

/-- The platform's reset establishes the invariant, whatever held before. -/
theorem platformReset_inv (s : State) (fate : HeldFate) : (s.platformReset fate).Inv where
  buf := rfl
  busy _ := rfl
  cause hp := by simp at hp
  clear _ := rfl
  record e he := by simp at he

theorem step_inv (hs : s.Inv) (h : step s = .next t) : t.Inv := by
  rcases step_cases s with ⟨fate, -, e⟩ | ⟨-, e⟩ | ⟨c, -, e⟩ <;> rw [e] at h
  · cases h
    exact platformReset_inv _ fate
  · rcases hostMoves_takeTurn_cases h with ⟨-, rfl⟩ | ⟨a, rest, -, heffect⟩
    · exact takeTurn_inv hs
    · exact heffect.inv (afterHost_inv hs)
  · exact engineMoves_inv (takeTurn_inv hs) h

/-! ## The frame of every command -/

/-- The outcome of a command that goes on: an error it meets is entered, or no more than its destination registers and
its stored region is written. -/
def ErrorOrFrame (i : Instr) (s t : State) : Prop :=
  (∃ e, Meets i s e ∧ t = s.errorEntry e (encode i)) ∨
  OnlyWrites i.destV i.destP i.destS (fun a => inRegion a (storedRegion s i)) s t

theorem readRegion_frame {addr n skip len : Nat} {k : List Byte → State}
    (h : readRegion (encode i) s addr n skip len k = .next t) (hregion : namedRegion s i = some (addr, n))
    (hk : ∀ bytes, ErrorOrFrame i s (k bytes)) : ErrorOrFrame i s t := by
  rcases readRegion_cases (encode i) s addr n skip len k with ⟨hout, e⟩ | ⟨-, bytes, -, e⟩ | ⟨-, -, e⟩ <;>
    rw [e] at h <;> cases h
  · exact .inl ⟨.bufferRange, .inl (by rw [hregion]; exact hout), rfl⟩
  · exact hk bytes

theorem writeRegion_frame {addr : Nat} {bytes : List Byte} {k : State → State}
    (h : writeRegion (encode i) s addr bytes k = .next t) (hregion : storedRegion s i = some (addr, bytes.length))
    (hk : OnlyWrites i.destV i.destP i.destS (fun a => addr ≤ a ∧ a < addr + bytes.length) s
      (k (s.storeBytes addr bytes))) : ErrorOrFrame i s t := by
  rcases writeRegion_cases (encode i) s addr bytes k with ⟨hout, e⟩ | ⟨-, e⟩ <;> rw [e] at h <;> cases h
  · exact .inl ⟨.bufferRange, .inr (by rw [hregion]; exact hout), rfl⟩
  · exact .inr (by rw [hregion]; exact hk)

theorem renderTo_frame {sd : SReg} {addr : Nat} {str : List Byte} (h : renderTo (encode i) sd addr str s = .next t)
    (hregion : storedRegion s i = some (addr, str.length))
    (hk : ∀ x, OnlyWrites i.destV i.destP i.destS (fun a => addr ≤ a ∧ a < addr + str.length) s
      ((s.storeBytes addr str).writeS sd x)) : ErrorOrFrame i s t :=
  writeRegion_frame h hregion (hk _)

/-- Storing bytes and writing a scalar register changes the bytes of the region and that register alone. -/
theorem onlyWrites_storeBytes_writeS (s : State) (addr : Nat) (bs : List Byte) (r : SReg) (x : Scalar) :
    OnlyWrites none none (some r) (fun k => addr ≤ k ∧ k < addr + bs.length) s ((s.storeBytes addr bs).writeS r x) where
  v _ _ := rfl
  p _ _ := rfl
  scalar _ hq := readS_writeS_other fun e => hq (by rw [e])
  buf _ hk := byteAt_setBytes_outside hk
  errors := ⟨rfl, rfl, rfl⟩
  control := ⟨rfl, rfl, rfl, rfl, rfl, rfl, rfl, rfl⟩

theorem divideBy_frame {f : Nat → Nat → Nat} {vd va vb : VReg} (h : divideBy (encode i) f vd va vb s = .next t)
    (hdivisor : divisorOf i = some vb) (hk : ∀ x, ErrorOrFrame i s (s.writeV vd x)) : ErrorOrFrame i s t := by
  rcases divideBy_cases (encode i) f vd va vb s with ⟨hzero, e⟩ | ⟨-, e⟩ <;> rw [e] at h <;> cases h
  · exact .inl ⟨.divisionByZero, fun hok => hok vb hdivisor hzero, rfl⟩
  · exact hk _

theorem changeBit_frame {f : Nat → Nat → Nat} {vd va : VReg} {sb : SReg} (h : changeBit f vd va sb s = .next t) :
    OnlyWritesV vd s t := by
  rw [changeBit_eq] at h
  cases h
  exact onlyWritesV_writeV s vd _

theorem execBit_frame {sd : SReg} {va : VReg} {sb : SReg} (h : execBit sd va sb s = .next t) : OnlyWritesS sd s t := by
  unfold execBit at h
  cases hb : s.bitPosition? sb <;> rw [hb] at h <;> cases h <;> exact onlyWritesS_writeS s sd _

/-- EVERY COMMAND that goes on enters an error it meets or stays within its frame, by the shape of its meaning. -/
theorem exec_errorOrFrame (h : exec i s = .next t) : ErrorOrFrame i s t := by
  cases i with
  | nop => cases h; exact .inr (onlyWrites_nothing s)
  | mov | zero | one | maxv | add | sub | plo | phi | and | or | xor | not | shl | shr | shli | shri | min | max
  | froms => cases h; exact .inr (onlyWritesV_writeV s _ _)
  | mul => cases h; exact .inr (onlyWrites_writeP s _ _)
  | pisz | clz | ctz | popc | eq | ne | lt | le | gt | ge | cmp | isodd | iseven | sli | sshi | smov =>
    cases h; exact .inr (onlyWritesS_writeS s _ _)
  | bit => exact .inr (execBit_frame h)
  | setbit | clrbit | flipbit =>
    simp only [exec, execSetbit, execClrbit, execFlipbit] at h
    exact .inr (changeBit_frame h)
  | div | mod => exact divideBy_frame h rfl fun _ => .inr (onlyWritesV_writeV s _ _)
  | fromw | fromle | frombe => exact readRegion_frame h rfl fun _ => .inr (onlyWritesV_writeV s _ _)
  | lds => exact readRegion_frame h rfl fun _ => .inr (onlyWritesS_writeS s _ _)
  | tow | tole | tobe => exact writeRegion_frame h (by simp [storedRegion]) (onlyWrites_storeBytes s _ _)
  | sts => exact writeRegion_frame h rfl (onlyWrites_storeBytes s _ _)
  | dec | hex | pdec => exact renderTo_frame h rfl fun _ => onlyWrites_storeBytes_writeS s _ _ _ _

/-! ## The lists of commands that write each file -/

/-- The commands that write V (10_state.md R21). -/
def writersOfV : List Mnemonic :=
  [.mov, .zero, .one, .maxv, .add, .sub, .div, .mod, .plo, .phi, .and, .or, .xor, .not, .shl, .shr, .shli, .shri,
    .setbit, .clrbit, .flipbit, .min, .max, .froms, .fromw, .fromle, .frombe]

/-- The commands that write S (10_state.md R24). -/
def writersOfS : List Mnemonic :=
  [.pisz, .bit, .clz, .ctz, .popc, .eq, .ne, .lt, .le, .gt, .ge, .cmp, .isodd, .iseven, .dec, .hex, .pdec, .sli, .sshi,
    .lds, .smov]

/-- The commands that write `BUF` (10_state.md R26). -/
def writersOfBuf : List Mnemonic := [.tow, .tole, .tobe, .dec, .hex, .pdec, .sts]

theorem destV_eq_none (h : i.mnemonic ∉ writersOfV) : i.destV = none := by
  cases i with
  | mov | zero | one | maxv | add | sub | div | mod | plo | phi | and | or | xor | not | shl | shr | shli | shri
  | setbit | clrbit | flipbit | min | max | froms | fromw | fromle | frombe =>
    exact absurd (by simp [Instr.mnemonic, writersOfV]) h
  | _ => rfl

theorem destP_eq_none (h : i.mnemonic ≠ .mul) : i.destP = none := by
  cases i with
  | mul => exact absurd rfl h
  | _ => rfl

theorem destS_eq_none (h : i.mnemonic ∉ writersOfS) : i.destS = none := by
  cases i with
  | pisz | bit | clz | ctz | popc | eq | ne | lt | le | gt | ge | cmp | isodd | iseven | dec | hex | pdec | sli | sshi
  | lds | smov => exact absurd (by simp [Instr.mnemonic, writersOfS]) h
  | _ => rfl

theorem storedRegion_eq_none (h : i.mnemonic ∉ writersOfBuf) : storedRegion s i = none := by
  cases i with
  | tow | tole | tobe | dec | hex | pdec | sts => exact absurd (by simp [Instr.mnemonic, writersOfBuf]) h
  | _ => rfl

/-! ## The host's access at its turn -/

/-- With the engine IDLE the host's next access is performed. -/
theorem step_eq_perform_of_idle (hidle : HostTurnIdle s) (hp : s.pending = a :: rest) :
    step s = s.afterHost.perform a := by
  obtain ⟨hphase, hturn⟩ := hidle
  rcases step_cases s with ⟨fate, hreset, -⟩ | ⟨-, e⟩ | ⟨c, hbusy, -⟩
  · exact absurd hreset (hturn fate)
  · rw [e, hostMoves_takeTurn_eq hp]
  · rw [hphase] at hbusy; cases hbusy

/-- At the host's turn an access that BUSY does not hold is performed, whatever the engine is doing
(20_memory.md R51). -/
theorem step_eq_perform_of_unheld (hturn : s.turn = .host) (hp : s.pending = a :: rest) (ha : a.unheld = true) :
    step s = s.afterHost.perform a := by
  have hmay : s.hostMayMove = true := by unfold State.hostMayMove; rw [hp]; exact ha
  rw [← hostMoves_takeTurn_eq hp]
  unfold step
  rw [hturn]
  cases s.phase with
  | idle => rfl
  | busy c => exact if_pos hmay

/-- An aligned 4-byte access is allowed everywhere. -/
theorem accessAllowed_word {o : HostOffset} (h : o.toNat % 4 = 0) : accessAllowed o .word = true := by
  simp [accessAllowed, AccessWidth.bytes, h]

/-- An aligned 4-byte read of the control space returns the register's word. -/
theorem perform_controlRead {o : HostOffset} (halign : o.toNat % 4 = 0) (hlow : o.toNat < windowBase) :
    s.perform (.read o .word) = .next (s.answer (s.controlWord o.toNat)) := by
  change s.hostRead o .word = _
  unfold State.hostRead
  rw [if_pos (accessAllowed_word halign), if_pos hlow]

/-- An aligned 4-byte write of the control space is the write of that register. -/
theorem perform_controlWrite {o : HostOffset} {d : Word32} (halign : o.toNat % 4 = 0) (hlow : o.toNat < windowBase) :
    s.perform (.write o .word d) = .next (s.writeControl o.toNat d) := by
  change s.hostWrite o .word d = _
  unfold State.hostWrite
  rw [if_pos (accessAllowed_word halign), if_pos hlow]

/-- The CONFIG word for both values of N (10_state.md R31). -/
theorem configWord_eq (s : State) : s.configWord = 0x10041000 + BitVec.ofNat 32 s.nwords := by
  unfold State.configWord
  rcases nwords_cases s with h | h <;> rw [h] <;> decide

/-- The bits of the STATUS word (10_state.md R33). -/
theorem statusWord_bits (s : State) :
    s.statusWord.getLsbD 0 = s.isBusy ∧ s.statusWord.getLsbD 1 = s.err ∧ s.statusWord.getLsbD 2 = s.drop ∧
      s.statusWord.extractLsb' 3 29 = 0 := by
  unfold State.statusWord
  cases s.isBusy <;> cases s.err <;> cases s.drop <;> decide

/-- The ERRCAUSE word of each cause (60_exceptions.md R300). -/
theorem errcauseWord_eq (s : State) :
    (s.errcause = none → s.errcauseWord = 0) ∧ (s.errcause = some .divisionByZero → s.errcauseWord = 1) ∧
      (s.errcause = some .illegalCommand → s.errcauseWord = 2) ∧ (s.errcause = some .bufferRange → s.errcauseWord = 3) := by
  unfold State.errcauseWord
  refine ⟨fun h => ?_, fun h => ?_, fun h => ?_, fun h => ?_⟩ <;> rw [h] <;> rfl

/-- Above CMDCOUNT the control space is reserved and reads 0 (20_memory.md R42). -/
theorem controlWord_reserved {o : Nat} (h : 0x020 ≤ o) : s.controlWord o = 0 := by
  unfold State.controlWord offId offConfig offBufsize offStatus offErrcause offErrcmd offCmdcount
  repeat rw [if_neg (by omega)]

/-! ## What a step does to CMDCOUNT and to the error record -/

/-- A step that is no reset and accepts no command leaves CMDCOUNT alone. -/
theorem step_cmdcount_eq (hreset : ∀ fate, s.turn ≠ .reset fate) (h : step s = .next t)
    (hno : ¬ ∃ c rest, s.phase = .idle ∧ s.err = false ∧ s.pending = .write 0x00C .word c :: rest) :
    t.cmdcount = s.cmdcount := by
  rcases step_cases s with ⟨fate, hturn, -⟩ | ⟨hready, e⟩ | ⟨c, -, e⟩
  · exact absurd hturn (hreset fate)
  · rw [e] at h
    rcases hostMoves_takeTurn_cases h with ⟨-, rfl⟩ | ⟨a, rest, hp, heffect⟩
    · rfl
    · refine heffect.cmdcount_eq fun c ha => ?_
      subst ha
      rcases hready with hidle | ⟨-, hmay⟩
      · exact Bool.eq_true_of_not_eq_false fun herr => hno ⟨c, rest, hidle, herr, hp⟩
      · unfold State.hostMayMove at hmay
        rw [hp] at hmay
        cases hmay
  · rw [e] at h
    obtain ⟨u, hu, rfl⟩ := completeResult_eq_next.1 h
    exact (executeWord_sameControl hu).cmdcount

/-- A step that accepts a command adds 1 to CMDCOUNT. -/
theorem step_cmdcount_accept (hreset : ∀ fate, s.turn ≠ .reset fate) (h : step s = .next t) (hidle : s.phase = .idle)
    (herr : s.err = false) (hp : s.pending = .write 0x00C .word c :: rest) : t.cmdcount = s.cmdcount + 1 := by
  rw [step_eq_perform_of_idle ⟨hidle, hreset⟩ hp, perform_controlWrite (by decide) (by decide)] at h
  obtain rfl : s.afterHost.issue c = t := Host.Outcome.next.inj h
  rcases issue_cases s.afterHost c with ⟨-, e⟩ | ⟨hset, -⟩
  · rw [e]; rfl
  · rw [show s.afterHost.err = s.err from rfl, herr] at hset; cases hset

/-- The error record after an engine step: as before, or the accepted word with the cause it raised, and ERR set. -/
theorem engineMoves_record (h : engineMoves c s = .next t) :
    (t.errcause = s.errcause ∧ t.errcmd = s.errcmd) ∨
    (t.phase = .idle ∧ t.err = true ∧ t.errcmd = c ∧ t.errcause ≠ none) := by
  obtain ⟨u, hu, rfl⟩ := completeResult_eq_next.1 h
  rcases executeWord_sameErrors_or_error hu with hsame | ⟨e, -, rfl⟩
  · exact .inl ⟨hsame.errcause, hsame.errcmd⟩
  · exact .inr ⟨rfl, rfl, rfl, by simp⟩

end

/-! ## The obligations -/

/-- Settles O57: the reset establishes the invariant, every performed access and every executed word keeps it. -/
theorem invariantKeptByEveryStep : Obligations.InvariantKeptByEveryStep := fun _ _ hs h => step_inv hs h

/-- Settles O39: an error entry writes no file, and within its frame a command writes only the files of its
destinations. -/
theorem onlyListedCommandsWriteEachFile : Obligations.OnlyListedCommandsWriteEachFile := by
  intro i s t h
  rcases exec_errorOrFrame h with ⟨e, -, rfl⟩ | hframe
  · exact ⟨fun _ _ => rfl, fun _ _ => rfl, fun _ _ => rfl, fun _ _ => rfl⟩
  · refine ⟨fun hv r => hframe.v r ?_, fun hp r => hframe.p r ?_, fun hs r => hframe.scalar r ?_,
      fun hbuf a => hframe.buf a ?_⟩
    · rw [destV_eq_none hv]; simp
    · rw [destP_eq_none hp]; simp
    · rw [destS_eq_none hs]; simp
    · rw [storedRegion_eq_none hbuf]; exact id

/-- Settles O47: the read answers the word of the register at its offset. -/
theorem controlReadsReturn : Obligations.ControlReadsReturn := by
  intro s o rest hidle hp halign hlow
  refine ⟨s.controlWord o.toNat, ?_, ?_, ?_, ?_, ?_, ?_, ?_, ?_, ?_, controlWord_reserved⟩
  · rw [step_eq_perform_of_idle hidle hp, perform_controlRead halign hlow]
    rfl
  all_goals rintro rfl
  · rfl
  · exact configWord_eq s
  · rfl
  · rfl
  · exact statusWord_bits s
  · exact errcauseWord_eq s
  · rfl
  · rfl

/-- Settles O55: an accepted command adds 1, and no other step that is no reset changes CMDCOUNT. -/
theorem cmdcountCountsAcceptedCommands : Obligations.CmdcountCountsAcceptedCommands := fun _ _ hreset h =>
  ⟨fun ⟨_, _, hidle, herr, hp⟩ => step_cmdcount_accept hreset h hidle herr hp, step_cmdcount_eq hreset h⟩

/-- Settles O56: no host access writes the error record, and an execution writes it only by the error entry. -/
theorem errorRecordWrittenOnlyAtErrorEntry : Obligations.ErrorRecordWrittenOnlyAtErrorEntry := by
  intro s t hreset h
  rcases step_cases s with ⟨fate, hturn, -⟩ | ⟨-, e⟩ | ⟨c, hbusy, e⟩
  · exact absurd hturn (hreset fate)
  · rw [e] at h
    rcases hostMoves_takeTurn_cases h with ⟨-, rfl⟩ | ⟨a, rest, -, heffect⟩
    · exact .inl ⟨rfl, rfl⟩
    · exact .inl heffect.sameRecord
  · rw [e] at h
    rcases engineMoves_record h with hsame | ⟨hphase, herr, hcmd, hcause⟩
    · exact .inl hsame
    · exact .inr ⟨c, hbusy, hphase, herr, hcmd, hcause⟩

/-- Settles O45: BUSY does not hold a write of STATUS, which clears where the datum has a 1. -/
theorem statusWriteClears : Obligations.StatusWriteClears := by
  intro s d rest hturn hp
  rw [step_eq_perform_of_unheld hturn hp rfl, perform_controlWrite (by decide) (by decide)]
  rfl

/-- Settles O48: at an offset that is neither CMD nor STATUS the write changes nothing. -/
theorem readOnlyWritesIgnored : Obligations.ReadOnlyWritesIgnored := by
  intro s o d rest hidle hp halign hlow hcmd hstatus
  rw [step_eq_perform_of_idle hidle hp, perform_controlWrite halign hlow]
  rcases writeControl_cases s.afterHost o.toNat d with ⟨ho, -⟩ | ⟨ho, -⟩ | ⟨-, -, e⟩
  · exact absurd (BitVec.eq_of_toNat_eq ho) hcmd
  · exact absurd (BitVec.eq_of_toNat_eq ho) hstatus
  · rw [e]

end Sys2Proof.Machine

/-! PROOFS. The family of 20_memory.md: the window's bytes, the accesses the address map refuses, the busy hold, and the
acceptance of a command. -/

/-! ## The command of an encoded word (30_encoding.md R71 to R77) -/

namespace Sys2Proof

/-- A word laid out in slots is read by the format of its own mnemonic. -/
theorem decode_slotsWord (m : Mnemonic) (d a b : BitVec 4) :
    decode (slotsWord m d a b) = decodeAs m (slotsWord m d a b) := by
  unfold decode
  rw [opByte_slotsWord, mnemonicOf_opcode]

/-- A word laid out with an immediate is read by the format of its own mnemonic. -/
theorem decode_immWord (m : Mnemonic) (d a : BitVec 4) (x : Imm16) :
    decode (immWord m d a x) = decodeAs m (immWord m d a x) := by
  unfold decode
  rw [opByte_immWord, mnemonicOf_opcode]

/-- Each format reads back the slots its row lays out, and finds its must-be-zero bits 0. -/
theorem decode_encode (i : Instr) : decode (encode i) = .ok i := by
  cases i with
  | nop => exact (decode_slotsWord _ _ _ _).trans (by simp [decodeAs, formatN])
  | zero | one | maxv => exact (decode_slotsWord _ _ _ _).trans (by simp [decodeAs, formatR1])
  | mov | not | clz | ctz | popc | isodd | iseven | froms | lds | smov | plo | phi | pisz =>
    exact (decode_slotsWord _ _ _ _).trans (by simp [decodeAs, formatR2])
  | add | sub | mul | div | mod | and | or | xor | shl | shr | bit | setbit | clrbit | flipbit | eq | ne | lt | le | gt
  | ge | cmp | min | max | fromw | fromle | frombe | dec | hex | pdec =>
    exact (decode_slotsWord _ _ _ _).trans (by simp [decodeAs, formatR3])
  | tow | tole | tobe | sts => exact (decode_slotsWord _ _ _ _).trans (by simp [decodeAs, formatS2])
  | sli | sshi => exact (decode_immWord _ _ _ _).trans (by simp [decodeAs, formatI1])
  | shli | shri => exact (decode_immWord _ _ _ _).trans (by simp [decodeAs, formatI2])

end Sys2Proof

namespace Sys2Proof.Machine

section
variable {i : Instr} {s t : State} {c : Word32} {r : Refusal} {a : HostAccess} {rest : List HostAccess}

/-! ## Bytes of a natural (20_memory.md R44, R47, R48) -/

/-- Byte k + 1 of a natural is byte k of what lies above its lowest byte. -/
theorem byteOf_succ (x k : Nat) : byteOf x (k + 1) = byteOf (x / 256) k := by
  unfold byteOf
  rw [Nat.div_div_eq_div_mul, pow_succ']

/-- Byte k of a natural laid out in n bytes. -/
theorem bytesOfNat_getElem? {n k : Nat} (x : Nat) (h : k < n) : (bytesOfNat n x)[k]? = some (byteOf x k) := by
  induction n generalizing k x with
  | zero => omega
  | succ n ih =>
    cases k with
    | zero => simp [bytesOfNat, byteOf]
    | succ k => rw [byteOf_succ]; exact ih (x / 256) (by omega)

/-- Byte k of the natural that a byte sequence composes. -/
theorem byteOf_natOfBytes {bs : List Byte} {k : Nat} (h : k < bs.length) :
    some (byteOf (natOfBytes bs) k) = bs[k]? := by
  induction bs generalizing k with
  | nil => simp at h
  | cons b bs ih =>
    have hb := b.isLt
    cases k with
    | zero => simpa [natOfBytes, byteOf, ← BitVec.toNat_inj] using hb
    | succ k =>
      rw [byteOf_succ, show natOfBytes (b :: bs) / 256 = natOfBytes bs by simp only [natOfBytes]; omega]
      exact ih (by simpa using h)

/-- Byte k of a word is byte k of the natural it stands for. -/
theorem extractLsb'_byte (d : Word32) (k : Nat) : d.extractLsb' (8 * k) 8 = byteOf d.toNat k := by
  unfold byteOf BitVec.extractLsb'
  rw [Nat.shiftRight_eq_div_pow, show 256 = 2 ^ 8 from rfl, ← pow_mul]

/-! ## The window (20_memory.md R44) -/

/-- An aligned window access is allowed at every width. -/
theorem accessAllowed_window {o : HostOffset} {w : AccessWidth} (halign : o.toNat % w.bytes = 0)
    (hwin : windowBase ≤ o.toNat) : accessAllowed o w = true := by
  simp [accessAllowed, halign, hwin]

/-- Inside the written region the written byte is read. -/
theorem byteAt_setBytes_inside {m : Memory} {b k : Nat} {bs : List Byte} (h : k < bs.length) :
    (m.setBytes b bs).byteAt (b + k) = bs[k]? := by
  rw [byteAt_setBytes, if_pos ⟨Nat.le_add_right b k, Nat.add_lt_add_left h b⟩, Nat.add_sub_cancel_left]

/-- The bytes of an access fit the 32 bits of a datum. -/
theorem pow_bytes_le (w : AccessWidth) : 256 ^ w.bytes ≤ 2 ^ 32 := by
  cases w <;> decide

/-- An aligned window read of written bytes answers the natural they compose. -/
theorem perform_windowRead {o : HostOffset} {w : AccessWidth} {bs : List Byte} (halign : o.toNat % w.bytes = 0)
    (hwin : windowBase ≤ o.toNat) (hbs : s.buf.bytesAt (o.toNat - windowBase) w.bytes = some bs) :
    s.perform (.read o w) = .next (s.answer (BitVec.ofNat 32 (natOfBytes bs))) := by
  change s.hostRead o w = _
  unfold State.hostRead
  rw [if_pos (accessAllowed_window halign hwin), if_neg (by omega), hbs]

/-- An aligned window write stores the bytes of its datum. -/
theorem perform_windowWrite {o : HostOffset} {w : AccessWidth} {d : Word32} (halign : o.toNat % w.bytes = 0)
    (hwin : windowBase ≤ o.toNat) :
    s.perform (.write o w d) = .next (s.storeBytes (o.toNat - windowBase) (bytesOfNat w.bytes d.toNat)) := by
  change s.hostWrite o w d = _
  unfold State.hostWrite
  rw [if_pos (accessAllowed_window halign hwin), if_neg (by omega)]

/-- The datum of a window read is below 256^n for n bytes, and its bytes are the ones read. -/
theorem windowDatum {m : Memory} {b : Nat} {w : AccessWidth} {bs : List Byte} (hbs : m.bytesAt b w.bytes = some bs) :
    (BitVec.ofNat 32 (natOfBytes bs)).toNat < 256 ^ w.bytes ∧
      ∀ k, k < w.bytes → m.byteAt (b + k) = some ((BitVec.ofNat 32 (natOfBytes bs)).extractLsb' (8 * k) 8) := by
  obtain ⟨hlen, hbyte⟩ := bytesAt_eq_some.1 hbs
  have hlt : natOfBytes bs < 256 ^ w.bytes := hlen ▸ natOfBytes_lt bs
  have hnat : (BitVec.ofNat 32 (natOfBytes bs)).toNat = natOfBytes bs :=
    Nat.mod_eq_of_lt (hlt.trans_le (pow_bytes_le w))
  refine ⟨by rw [hnat]; exact hlt, fun k hk => ?_⟩
  rw [extractLsb'_byte, hnat, byteOf_natOfBytes (by omega), hbyte k hk]

/-! ## Refused accesses (20_memory.md R43) -/

/-- A performed access is refused exactly when it is a host bus error. -/
theorem perform_eq_refused_iff : s.perform a = .refused r ↔ r = .hostBusError ∧ BusError a := by
  rw [← accessAllowed_eq_false_iff]
  cases a with
  | read o w =>
    change s.hostRead o w = _ ↔ _ ∧ accessAllowed o w = false
    rcases hostRead_cases s o w with ⟨ha, e⟩ | ⟨ha, -, e⟩ | ⟨ha, -, _, -, e⟩ | ⟨ha, -, -, e⟩ <;> simp [ha, e, eq_comm]
  | write o w d =>
    change s.hostWrite o w d = _ ↔ _ ∧ accessAllowed o w = false
    rcases hostWrite_cases s o w d with ⟨ha, e⟩ | ⟨ha, -, e⟩ | ⟨ha, -, e⟩ <;> simp [ha, e, eq_comm]

theorem readRegion_ne_refused {addr n skip len : Nat} {k : List Byte → State} :
    readRegion c s addr n skip len k ≠ .refused r := by
  rcases readRegion_cases c s addr n skip len k with ⟨-, e⟩ | ⟨-, _, -, e⟩ | ⟨-, -, e⟩ <;> simp [e]

theorem writeRegion_ne_refused {addr : Nat} {bytes : List Byte} {k : State → State} :
    writeRegion c s addr bytes k ≠ .refused r := by
  rcases writeRegion_cases c s addr bytes k with ⟨-, e⟩ | ⟨-, e⟩ <;> simp [e]

theorem renderTo_ne_refused {sd : SReg} {addr : Nat} {str : List Byte} : renderTo c sd addr str s ≠ .refused r :=
  writeRegion_ne_refused

theorem divideBy_ne_refused {f : Nat → Nat → Nat} {vd va vb : VReg} : divideBy c f vd va vb s ≠ .refused r := by
  rcases divideBy_cases c f vd va vb s with ⟨-, e⟩ | ⟨-, e⟩ <;> simp [e]

theorem execBit_ne_refused {sd : SReg} {va : VReg} {sb : SReg} : execBit sd va sb s ≠ .refused r := by
  unfold execBit
  cases s.bitPosition? sb <;> simp

/-- NO COMMAND IS REFUSED, by the shape of its meaning. -/
theorem exec_ne_refused : exec i s ≠ .refused r := by
  cases i with
  | nop | mov | zero | one | maxv | add | sub | mul | plo | phi | pisz | and | or | xor | not | shl | shr | shli | shri
  | clz | ctz | popc | eq | ne | lt | le | gt | ge | cmp | isodd | iseven | min | max | froms | sli | sshi | smov =>
    exact nofun
  | bit => exact execBit_ne_refused
  | setbit | clrbit | flipbit =>
    simp [exec, execSetbit, execClrbit, execFlipbit, changeBit_eq]
  | div | mod => exact divideBy_ne_refused
  | fromw | fromle | frombe | lds => exact readRegion_ne_refused
  | tow | tole | tobe | sts => exact writeRegion_ne_refused
  | dec | hex | pdec => exact renderTo_ne_refused

/-- An accepted word is executed, legal or illegal. -/
theorem executeWord_ne_refused : executeWord c s ≠ .refused r := by
  unfold executeWord
  cases decode c with
  | error _ => exact nofun
  | ok i => exact exec_ne_refused

theorem engineMoves_ne_refused : engineMoves c s ≠ .refused r := by
  unfold engineMoves
  cases h : executeWord c s with
  | next | fault => exact nofun
  | refused => exact absurd h executeWord_ne_refused

/-! ## The engine's step and the busy hold (20_memory.md R51 to R53) -/

/-- At its own turn the engine executes the accepted word. -/
theorem step_eq_engineMoves_of_engine (hturn : s.turn = .engine) (hbusy : s.phase = .busy c) :
    step s = engineMoves c s.takeTurn := by
  unfold step
  rw [hturn, hbusy]

/-- At the host's turn an access that BUSY holds leaves the step to the engine. -/
theorem step_eq_engineMoves_of_held (hturn : s.turn = .host) (hbusy : s.phase = .busy c) (hp : s.pending = a :: rest)
    (ha : ¬ PerformedAtOnce a) : step s = engineMoves c s.takeTurn := by
  have hmay : ¬ s.hostMayMove = true := by unfold State.hostMayMove; rw [hp]; exact mt (unheld_iff a).1 ha
  unfold step
  rw [hturn, hbusy]
  exact if_neg hmay

/-- A completed command leaves the engine IDLE and the host's accesses as they were. -/
theorem engineMoves_idle_pending (h : engineMoves c s = .next t) : t.phase = .idle ∧ t.pending = s.pending := by
  obtain ⟨u, hu, rfl⟩ := completeResult_eq_next.1 h
  exact ⟨rfl, (executeWord_sameControl hu).pending⟩

/-- Executing a word that decodes to a command is that command's meaning. -/
theorem executeWord_of_decode (h : decode c = .ok i) : executeWord c s = exec i s := by
  unfold executeWord
  rw [h]

/-- The offsets of ID, CONFIG, BUFSIZE and STATUS are aligned and lie below the window. -/
theorem unheldRead_offset {o : HostOffset} (ho : o ∈ ([0x000, 0x004, 0x008, 0x010] : List HostOffset)) :
    o.toNat % 4 = 0 ∧ o.toNat < windowBase := by
  revert o
  decide

/-- A host read of ID, CONFIG, BUFSIZE or STATUS is performed at its turn, BUSY or not. -/
theorem step_unheldRead {o : HostOffset} (hturn : s.turn = .host) (hp : s.pending = .read o .word :: rest)
    (ho : o ∈ ([0x000, 0x004, 0x008, 0x010] : List HostOffset)) :
    step s = .next (s.afterHost.answer (s.controlWord o.toNat)) := by
  have hat : PerformedAtOnce (.read o .word) := .inl (by simpa using ho)
  obtain ⟨halign, hlow⟩ := unheldRead_offset ho
  rw [step_eq_perform_of_unheld hturn hp ((unheld_iff _).2 hat), perform_controlRead halign hlow]
  rfl

end

/-! ## The obligations -/

/-- Settles O46: R51 exempts the reads of four registers and the write of STATUS; any other access leaves the turn to
the engine, which touches no access of the host. -/
theorem busyHoldsHostAccesses : Obligations.BusyHoldsHostAccesses := by
  intro s c a rest hbusy hturn hp
  refine ⟨?_, ?_, fun ha => ?_⟩
  · rintro o rfl ho
    refine ⟨s.controlWord o.toNat, step_unheldRead hturn hp ho, ?_, ?_, ?_, ?_⟩ <;> rintro rfl
    · rfl
    · exact configWord_eq s
    · rfl
    · have hset : s.isBusy = true := by unfold State.isBusy; rw [hbusy]
      exact hset ▸ statusWord_bits s
  · rintro d rfl
    exact statusWriteClears s d rest hturn hp
  · have hstep := step_eq_engineMoves_of_held hturn hbusy hp ha
    refine ⟨hstep, fun t ht => ?_⟩
    obtain ⟨hidle, hpending⟩ := engineMoves_idle_pending (hstep ▸ ht)
    exact ⟨hidle, hpending.trans hp⟩

/-- Settles O49: the datum of a read is composed of the bytes read, and a write replaces the bytes of its region by the
bytes of its datum. -/
theorem windowAccesses : Obligations.WindowAccesses := by
  constructor
  · intro s o w rest hidle hp halign hwin hwritten
    obtain ⟨bs, hbs⟩ := (bytesAt_isSome _ _ _).2 hwritten
    refine ⟨_, ?_, windowDatum hbs⟩
    rw [step_eq_perform_of_idle hidle hp, perform_windowRead (s := s.afterHost) halign hwin hbs]
    rfl
  · intro s o w d rest hidle hp halign hwin
    refine ⟨s.buf.setBytes (o.toNat - windowBase) (bytesOfNat w.bytes d.toNat), ?_, fun k hk => ?_, fun a ha => ?_⟩
    · rw [step_eq_perform_of_idle hidle hp, perform_windowWrite halign hwin]
      rfl
    · rw [extractLsb'_byte, ← bytesOfNat_getElem? d.toNat hk]
      exact byteAt_setBytes_inside (by rwa [bytesOfNat_length])
    · exact byteAt_setBytes_outside (by rwa [bytesOfNat_length])

/-- Settles O50: the address map refuses exactly the host bus errors, and no command is refused. -/
theorem badHostAccessRefused : Obligations.BadHostAccessRefused := by
  constructor
  · intro s a rest hidle hp ha
    rw [step_eq_perform_of_idle hidle hp]
    exact perform_eq_refused_iff.2 ⟨rfl, ha⟩
  · intro s r h
    rcases step_cases s with ⟨fate, -, e⟩ | ⟨-, e⟩ | ⟨c, -, e⟩ <;> rw [e] at h
    · cases h
    · cases hp : s.pending with
      | nil => unfold State.hostMoves at h; rw [takeTurn_pending, hp] at h; cases h
      | cons a rest =>
        rw [hostMoves_takeTurn_eq hp] at h
        obtain ⟨hr, ha⟩ := perform_eq_refused_iff.1 h
        exact ⟨hr, a, rest, rfl, ha⟩
    · exact absurd h engineMoves_ne_refused

/-- Settles O42: the loaded word stands accepted with the engine's turn next, and decodes to its command. -/
theorem loadedCommandRunsNext : Obligations.LoadedCommandRunsNext := by
  intro s i
  have hload : s.withFetchWord 32 (encode i).toNat = s.loadCommand (encode i) := by
    unfold State.withFetchWord
    rw [Nat.mod_eq_of_lt (encode i).isLt, BitVec.ofNat_toNat, BitVec.setWidth_eq]
  rw [hload, step_eq_engineMoves_of_engine rfl rfl, engineMoves, executeWord_of_decode (decode_encode i)]
  rfl

/-- Settles O44: at an IDLE engine the write issues its command, which ERR decides. -/
theorem commandWriteAcceptsOrDiscards : Obligations.CommandWriteAcceptsOrDiscards := by
  intro s c rest hidle hp
  have hstep : step s = .next (s.afterHost.issue c) := by
    rw [step_eq_perform_of_idle hidle hp, perform_controlWrite (by decide) (by decide)]
    rfl
  rw [hstep]
  rcases issue_cases s.afterHost c with ⟨herr, e⟩ | ⟨herr, e⟩ <;> rw [e]
  · exact ⟨fun _ => rfl, fun hset => absurd (herr.symm.trans hset) nofun⟩
  · exact ⟨fun hclear => absurd (herr.symm.trans hclear) nofun, fun _ => rfl⟩

/-- Settles O51: an IDLE engine leaves the step to the host, which has no access left. -/
theorem idleBlockKeepsState : Obligations.IdleBlockKeepsState := by
  rintro s ⟨hphase, hturn⟩ hp
  rcases step_cases s with ⟨fate, hreset, -⟩ | ⟨-, e⟩ | ⟨c, hbusy, -⟩
  · exact absurd hreset (hturn fate)
  · rw [e]
    unfold State.hostMoves
    rw [takeTurn_pending, hp]
  · rw [hphase] at hbusy; cases hbusy

end Sys2Proof.Machine

/-! PROOFS. The family of 30_encoding.md: the decoder against the opcode map, the illegal words, the expansion of `LI`,
and that a result depends only on what its command reads. -/

/-! ## The opcode map (30_encoding.md R71 to R77) -/

namespace Sys2Proof

section
variable {m m' : Mnemonic} {c : Word32} {i : Instr}

theorem Mnemonic.opcode_injective (h : m.opcode = m'.opcode) : m = m' :=
  Option.some.inj (by rw [← mnemonicOf_opcode m, ← mnemonicOf_opcode m', h])

/-- The opcode byte of an encoded command is that of its mnemonic. -/
theorem opByte_encode (i : Instr) : opByte (encode i) = i.mnemonic.opcode := by
  cases i with
  | shli | shri | sli | sshi => exact opByte_immWord _ _ _ _
  | _ => exact opByte_slotsWord _ _ _ _

/-- A word that decodes has the opcode byte of its command. -/
theorem opByte_of_decode (h : decode c = .ok i) : opByte c = i.mnemonic.opcode := by
  rw [← encode_of_decode h, opByte_encode]

/-- A word with a listed opcode is read by the format of that row. -/
theorem decode_eq_decodeAs (h : opByte c = m.opcode) : decode c = decodeAs m c := by
  unfold decode
  rw [h, mnemonicOf_opcode]

/-- A word is determined by its opcode, its three slots and its low bits. -/
theorem word_eq_of_fields {c c' : Word32} (hop : opByte c = opByte c') (hd : slotD c = slotD c')
    (ha : slotA c = slotA c') (hb : slotB c = slotB c') (hlow : lowBits c = lowBits c') : c = c' := by
  have hfields (c : Word32) : opByte c ++ slotD c ++ slotA c ++ slotB c ++ lowBits c = c := by
    unfold opByte slotD slotA slotB lowBits
    repeat rw [BitVec.extractLsb'_append_extractLsb'_eq_extractLsb' (by rfl)]
    exact BitVec.extractLsb'_eq_self
  rw [← hfields c, ← hfields c', hop, hd, ha, hb, hlow]

/-- The bits outside the opcode that a row compares are 0 in the word. -/
def Mnemonic.ComparedBitsZero (m : Mnemonic) (c : Word32) : Prop :=
  slotD c &&& slotD m.mask = 0 ∧ slotA c &&& slotA m.mask = 0 ∧ slotB c &&& slotB m.mask = 0 ∧
    lowBits c &&& lowBits m.mask = 0

/-- The mask covers the opcode byte, and "match" is the opcode above zeros (R76). -/
theorem Mnemonic.mask_pat_fields (m : Mnemonic) :
    opByte m.mask = 0xFF ∧ opByte m.pat = m.opcode ∧ slotD m.pat = 0 ∧ slotA m.pat = 0 ∧ slotB m.pat = 0 ∧
      lowBits m.pat = 0 := by
  cases m <;> decide

/-- A word matches a row exactly when it has the row's opcode and its other compared bits are 0. -/
theorem and_mask_eq_pat_iff : c &&& m.mask = m.pat ↔ opByte c = m.opcode ∧ m.ComparedBitsZero c := by
  obtain ⟨hmask, hop, hd, ha, hb, hlow⟩ := m.mask_pat_fields
  have hopAnd : opByte (c &&& m.mask) = opByte c := by
    rw [show opByte (c &&& m.mask) = opByte c &&& opByte m.mask from BitVec.extractLsb'_and, hmask]
    exact BitVec.and_allOnes
  have hdAnd : slotD (c &&& m.mask) = slotD c &&& slotD m.mask := BitVec.extractLsb'_and
  have haAnd : slotA (c &&& m.mask) = slotA c &&& slotA m.mask := BitVec.extractLsb'_and
  have hbAnd : slotB (c &&& m.mask) = slotB c &&& slotB m.mask := BitVec.extractLsb'_and
  have hlowAnd : lowBits (c &&& m.mask) = lowBits c &&& lowBits m.mask := BitVec.extractLsb'_and
  constructor
  · intro h
    rw [h] at hopAnd hdAnd haAnd hbAnd hlowAnd
    exact ⟨hopAnd.symm.trans hop, hdAnd.symm.trans hd, haAnd.symm.trans ha, hbAnd.symm.trans hb,
      hlowAnd.symm.trans hlow⟩
  · rintro ⟨hc, hcd, hca, hcb, hclow⟩
    exact word_eq_of_fields (hopAnd.trans (hc.trans hop.symm)) (hdAnd.trans (hcd.trans hd.symm))
      (haAnd.trans (hca.trans ha.symm)) (hbAnd.trans (hcb.trans hb.symm)) (hlowAnd.trans (hclow.trans hlow.symm))

/-- A check with a rejection succeeds exactly when it passes and what follows it succeeds. -/
theorem check_isOk {p : Prop} [Decidable p] {k : Except Illegal Instr} {r : Illegal} :
    (∃ i, (if p then k else .error r) = .ok i) ↔ p ∧ ∃ i, k = .ok i := by
  split <;> simp [*]

theorem formatN_isOk {k : Except Illegal Instr} :
    (∃ i, formatN c k = .ok i) ↔ (slotD c = 0 ∧ slotA c = 0 ∧ slotB c = 0 ∧ lowBits c = 0) ∧ ∃ i, k = .ok i :=
  check_isOk

theorem formatR1_isOk {k : BitVec 4 → Except Illegal Instr} :
    (∃ i, formatR1 c k = .ok i) ↔ (slotA c = 0 ∧ slotB c = 0 ∧ lowBits c = 0) ∧ ∃ i, k (slotD c) = .ok i :=
  check_isOk

theorem formatR2_isOk {k : BitVec 4 → BitVec 4 → Except Illegal Instr} :
    (∃ i, formatR2 c k = .ok i) ↔ (slotB c = 0 ∧ lowBits c = 0) ∧ ∃ i, k (slotD c) (slotA c) = .ok i :=
  check_isOk

theorem formatR3_isOk {k : BitVec 4 → BitVec 4 → BitVec 4 → Except Illegal Instr} :
    (∃ i, formatR3 c k = .ok i) ↔ lowBits c = 0 ∧ ∃ i, k (slotD c) (slotA c) (slotB c) = .ok i :=
  check_isOk

theorem formatS2_isOk {k : BitVec 4 → BitVec 4 → Except Illegal Instr} :
    (∃ i, formatS2 c k = .ok i) ↔ (slotD c = 0 ∧ lowBits c = 0) ∧ ∃ i, k (slotA c) (slotB c) = .ok i :=
  check_isOk

theorem formatI1_isOk {k : BitVec 4 → Imm16 → Except Illegal Instr} :
    (∃ i, formatI1 c k = .ok i) ↔ slotA c = 0 ∧ ∃ i, k (slotD c) (immField c) = .ok i :=
  check_isOk

/-- A slot is accepted as a wide index exactly when its top two bits are 0 (R72). -/
theorem wideIndex_isOk {d : BitVec 4} {k : PReg → Instr} :
    (∃ i, wideIndex d (fun p => .ok (k p)) = .ok i) ↔ d &&& 0xC = 0 := by
  have htop : d.extractLsb' 2 2 = 0#2 ↔ d &&& 0xC = 0 := by
    revert d
    decide
  rw [← htop]
  exact check_isOk.trans (and_iff_left ⟨_, rfl⟩)

/-- A slot that a row compares in full. -/
@[simp] theorem slot_and_full (d : BitVec 4) : d &&& 15#4 = d := BitVec.and_allOnes

/-- The low bits where a row compares them, which is in full. -/
@[simp] theorem low_and_full (x : BitVec 12) : x &&& 4095#12 = x := BitVec.and_allOnes

/-- A row's format accepts a word exactly when the compared bits outside the opcode are 0, format by format (R73). -/
theorem decodeAs_isOk_iff : (∃ i, decodeAs m c = .ok i) ↔ m.ComparedBitsZero c := by
  unfold Mnemonic.ComparedBitsZero decodeAs
  cases m with
  | nop => simp [formatN_isOk, Mnemonic.mask, slotD, slotA, slotB, lowBits]
  | zero | one | maxv => simp [formatR1_isOk, Mnemonic.mask, slotD, slotA, slotB, lowBits]
  | mov | not | clz | ctz | popc | isodd | iseven | froms | lds | smov =>
    simp [formatR2_isOk, Mnemonic.mask, slotD, slotA, slotB, lowBits]
  | plo | phi | pisz =>
    simp [formatR2_isOk, wideIndex_isOk, Mnemonic.mask, slotD, slotA, slotB, lowBits, and_comm, and_assoc]
  | add | sub | div | mod | and | or | xor | shl | shr | bit | setbit | clrbit | flipbit | eq | ne | lt | le | gt | ge
  | cmp | min | max | fromw | fromle | frombe | dec | hex =>
    simp [formatR3_isOk, Mnemonic.mask, slotD, slotA, slotB, lowBits]
  | mul | pdec => simp [formatR3_isOk, wideIndex_isOk, Mnemonic.mask, slotD, slotA, slotB, lowBits, and_comm]
  | tow | tole | tobe | sts => simp [formatS2_isOk, Mnemonic.mask, slotD, slotA, slotB, lowBits]
  | sli | sshi => simp [formatI1_isOk, Mnemonic.mask, slotD, slotA, slotB, lowBits]
  | shli | shri => simp [formatI2, Mnemonic.mask, slotD, slotA, slotB, lowBits]

/-- The opcode map against the decoder (R77): the words a row matches are those that decode to one of its commands. -/
theorem matches_iff_decode : c &&& m.mask = m.pat ↔ ∃ i, decode c = .ok i ∧ i.mnemonic = m := by
  rw [and_mask_eq_pat_iff, ← decodeAs_isOk_iff]
  constructor
  · rintro ⟨hop, i, hi⟩
    have hdecode : decode c = .ok i := (decode_eq_decodeAs hop).trans hi
    exact ⟨i, hdecode, Mnemonic.opcode_injective ((opByte_of_decode hdecode).symm.trans hop)⟩
  · rintro ⟨i, hi, rfl⟩
    have hop := opByte_of_decode hi
    exact ⟨hop, i, (decode_eq_decodeAs hop).symm.trans hi⟩

/-- A word that decodes to no command is rejected with a reason. -/
theorem decode_eq_error (h : ∀ i, decode c ≠ .ok i) : ∃ r, decode c = .error r := by
  cases hd : decode c with
  | ok i => exact absurd hd (h i)
  | error r => exact ⟨r, rfl⟩

end
end Sys2Proof

namespace Sys2Proof.Machine

/-! ## The expansion of `LI` (30_encoding.md R83) -/

section
variable {i : Instr} {s t : State}

theorem writeS_writeS (s : State) (r : SReg) (x y : Scalar) : (s.writeS r x).writeS r y = s.writeS r y := by
  unfold State.writeS
  simp

theorem execAll_cons_next {is : List Instr} (h : exec i s = .next t) : execAll (i :: is) s = execAll is t := by
  simp only [execAll, h]

theorem lt_two_pow_bitLen (x : Nat) : x < 2 ^ bitLen x := by
  unfold bitLen
  split
  · simp [*]
  · exact Nat.lt_log2_self

theorem bitLen_le {x n : Nat} (h : x < 2 ^ n) : bitLen x ≤ n := by
  unfold bitLen
  split
  · exact Nat.zero_le n
  · exact (Nat.log2_lt ‹_›).2 h

theorem one_le_liCount (u : Nat) : 1 ≤ liCount u := Nat.le_max_left _ _

/-- The chunks of 16 bits that `LI` loads make up the constant. -/
theorem lt_two_pow_liCount (u : Nat) : u < 2 ^ (16 * liCount u) :=
  (lt_two_pow_bitLen u).trans_le (Nat.pow_le_pow_right two_pos (by unfold liCount; omega))

/-- A scalar shifted left by 16 bits, with the low 16 bits of a natural inserted, is that natural where the scalar is
what lies above them (45_scalar.md R271). -/
theorem extractLsb'_append_low16 (x : Nat) :
    (BitVec.ofNat 64 (x / 2 ^ 16)).extractLsb' 0 48 ++ BitVec.ofNat 16 x = BitVec.ofNat 64 x := by
  apply BitVec.eq_of_toNat_eq
  rw [BitVec.toNat_append, ← Nat.shiftLeft_add_eq_or_of_lt (BitVec.isLt _)]
  simp only [BitVec.extractLsb'_toNat, BitVec.toNat_ofNat, Nat.shiftRight_zero, Nat.shiftLeft_eq]
  omega

/-- The `SSHI` of chunk j takes the register from the chunks above j to those from j up. -/
theorem exec_sshi_liChunk (s : State) (sd : SReg) (u j : Nat) :
    exec (.sshi sd (liChunk u j)) (s.writeS sd (BitVec.ofNat 64 (u / 2 ^ (16 * (j + 1))))) =
      .next (s.writeS sd (BitVec.ofNat 64 (u / 2 ^ (16 * j)))) := by
  have hdiv : u / 2 ^ (16 * (j + 1)) = u / 2 ^ (16 * j) / 2 ^ 16 := by
    rw [Nat.div_div_eq_div_mul, ← pow_add, Nat.mul_succ]
  simp only [exec, execSshi, liChunk, readS_writeS_same, writeS_writeS, hdiv, extractLsb'_append_low16]

/-- The `SSHI`s of the chunks below n, from the top down, complete a register that holds the chunks from n up. -/
theorem execAll_sshi_chunks (s : State) (sd : SReg) (u n : Nat) :
    execAll ((List.range n).reverse.map fun j => .sshi sd (liChunk u j))
      (s.writeS sd (BitVec.ofNat 64 (u / 2 ^ (16 * n)))) = .next (s.writeS sd (BitVec.ofNat 64 u)) := by
  induction n with
  | zero => simp [execAll]
  | succ n ih =>
    rw [List.range_succ, List.reverse_append, List.reverse_singleton, List.singleton_append, List.map_cons,
      execAll_cons_next (exec_sshi_liChunk s sd u n)]
    exact ih

theorem zextImm_ofNat {x : Nat} (h : x < 2 ^ 16) : zextImm (BitVec.ofNat 16 x) = BitVec.ofNat 64 x := by
  apply BitVec.eq_of_toNat_eq
  simp only [zextImm, BitVec.toNat_setWidth, BitVec.toNat_ofNat]
  omega

/-- The `SLI` of the top chunk loads what lies from it up. -/
theorem exec_sli_liChunk (s : State) (sd : SReg) {u j : Nat} (h : u < 2 ^ (16 * (j + 1))) :
    exec (.sli sd (liChunk u j)) s = .next (s.writeS sd (BitVec.ofNat 64 (u / 2 ^ (16 * j)))) := by
  rw [Nat.mul_succ, pow_add] at h
  have htop : u / 2 ^ (16 * j) < 2 ^ 16 := Nat.div_lt_of_lt_mul h
  simp only [exec, execSli, liChunk, zextImm_ofNat htop]

/-- THE EXPANSION OF `LI` writes the constant to its register and does nothing else. -/
theorem execAll_liExpand (s : State) (sd : SReg) (u : Nat) :
    execAll (liExpand sd u) s = .next (s.writeS sd (BitVec.ofNat 64 u)) := by
  have hcount := Nat.sub_add_cancel (one_le_liCount u)
  have htop : u < 2 ^ (16 * (liCount u - 1 + 1)) := by
    rw [hcount]
    exact lt_two_pow_liCount u
  unfold liExpand
  rw [execAll_cons_next (exec_sli_liChunk s sd htop)]
  exact execAll_sshi_chunks s sd u _

theorem liExpand_length (sd : SReg) (u : Nat) : (liExpand sd u).length = liCount u := by
  simp only [liExpand, List.length_cons, List.length_map, List.length_reverse, List.length_range]
  exact Nat.sub_add_cancel (one_le_liCount u)

end

/-! ## What a result depends on (30_encoding.md R80, 10_state.md R21, R22, R24) -/

/-- Two states of one instance that agree on what a command reads: its source registers, and the `BUF` bytes its result
depends on. -/
structure AgreeOnSources (i : Instr) (s s' : State) : Prop where
  inst : s'.inst = s.inst
  v : ∀ r ∈ i.srcV, s'.readV r = s.readV r
  p : ∀ r ∈ i.srcP, s'.readP r = s.readP r
  scalar : ∀ r ∈ i.srcS, s'.readS r = s.readS r
  buf : ∀ a, inRegion a (usedRegion s i) → s'.buf.byteAt a = s.buf.byteAt a

/-- A command goes on in both states with the same result: it writes the same values to its destination registers and
the same bytes to the same region. -/
def CompletesAlike (i : Instr) (s s' : State) : Prop :=
  storedRegion s' i = storedRegion s i ∧
  ∃ t t', exec i s = .next t ∧ exec i s' = .next t' ∧
    (∀ r, i.destV = some r → t.readV r = t'.readV r) ∧ (∀ r, i.destP = some r → t.readP r = t'.readP r) ∧
    (∀ r, i.destS = some r → t.readS r = t'.readS r) ∧
    (∀ a, inRegion a (storedRegion s i) → t.buf.byteAt a = t'.buf.byteAt a)

section
variable {i : Instr} {s s' : State}

/-! The derived readings of a command's operands. -/

theorem AgreeOnSources.nwords (h : AgreeOnSources i s s') : s'.nwords = s.nwords := by
  unfold State.nwords
  rw [h.inst]

theorem AgreeOnSources.width (h : AgreeOnSources i s s') : s'.width = s.width := width_of_inst h.inst

theorem AgreeOnSources.valueBytes (h : AgreeOnSources i s s') : s'.valueBytes = s.valueBytes := by
  unfold State.valueBytes
  rw [h.nwords]

theorem AgreeOnSources.natS (h : AgreeOnSources i s s') {r : SReg} (hr : r ∈ i.srcS) : s'.natS r = s.natS r :=
  congrArg BitVec.toNat (h.scalar r hr)

theorem AgreeOnSources.bitPosition (h : AgreeOnSources i s s') {r : SReg} (hr : r ∈ i.srcS) :
    s'.bitPosition? r = s.bitPosition? r := by
  unfold State.bitPosition? State.bitIndex
  rw [h.scalar r hr, h.width]

/-! The results of each shape: in both states the command writes the same value to its one destination register. -/

theorem completesAlike_value {r : VReg} {x x' : Nat} (hinst : s'.inst = s.inst)
    (hdest : (i.destV, i.destP, i.destS) = (some r, none, none)) (hr : ∀ t, storedRegion t i = none)
    (h : exec i s = .next (s.writeV r x)) (h' : exec i s' = .next (s'.writeV r x')) (hx : x' = x) :
    CompletesAlike i s s' := by
  simp only [Prod.mk.injEq] at hdest
  obtain ⟨hv, hp, hs⟩ := hdest
  subst hx
  refine ⟨(hr s').trans (hr s).symm, _, _, h, h', ?_, ?_, ?_, ?_⟩
  · rw [hv]
    rintro _ ⟨⟩
    rw [readV_writeV, readV_writeV, if_pos rfl, if_pos rfl, width_of_inst hinst]
  · simp [hp]
  · simp [hs]
  · simp [hr, inRegion]

theorem completesAlike_wide {r : PReg} {x x' : Nat} (hinst : s'.inst = s.inst)
    (hdest : (i.destV, i.destP, i.destS) = (none, some r, none)) (hr : ∀ t, storedRegion t i = none)
    (h : exec i s = .next (s.writeP r x)) (h' : exec i s' = .next (s'.writeP r x')) (hx : x' = x) :
    CompletesAlike i s s' := by
  simp only [Prod.mk.injEq] at hdest
  obtain ⟨hv, hp, hs⟩ := hdest
  subst hx
  refine ⟨(hr s').trans (hr s).symm, _, _, h, h', ?_, ?_, ?_, ?_⟩
  · simp [hv]
  · rw [hp]
    rintro _ ⟨⟩
    rw [readP_writeP, readP_writeP, if_pos rfl, if_pos rfl, width_of_inst hinst]
  · simp [hs]
  · simp [hr, inRegion]

theorem completesAlike_scalar {r : SReg} {x x' : Scalar}
    (hdest : (i.destV, i.destP, i.destS) = (none, none, some r)) (hr : ∀ t, storedRegion t i = none)
    (h : exec i s = .next (s.writeS r x)) (h' : exec i s' = .next (s'.writeS r x')) (hx : x' = x) :
    CompletesAlike i s s' := by
  simp only [Prod.mk.injEq] at hdest
  obtain ⟨hv, hp, hs⟩ := hdest
  subst hx
  refine ⟨(hr s').trans (hr s).symm, _, _, h, h', ?_, ?_, ?_, ?_⟩
  · simp [hv]
  · simp [hp]
  · rw [hs]
    rintro _ ⟨⟩
    rw [readS_writeS_same, readS_writeS_same]
  · simp [hr, inRegion]

/-! The outcome of each shared operation where the command completes. -/

theorem divideBy_eq {c : Word32} {f : Nat → Nat → Nat} {vd va vb : VReg} (h : s.readV vb ≠ 0) :
    divideBy c f vd va vb s = .next (s.writeV vd (f (s.readV va) (s.readV vb))) := if_neg h

theorem readRegion_eq {c : Word32} {addr n skip len : Nat} {k : List Byte → State} {bs : List Byte}
    (hin : addr + n ≤ 4096) (hbs : s.buf.bytesAt (addr + skip) len = some bs) :
    readRegion c s addr n skip len k = .next (k bs) := by
  unfold readRegion
  rw [if_pos ((inRange_iff addr n).2 hin), hbs]

theorem writeRegion_eq {c : Word32} {addr : Nat} {bs : List Byte} {k : State → State} (hin : addr + bs.length ≤ 4096) :
    writeRegion c s addr bs k = .next (k (s.storeBytes addr bs)) := if_pos ((inRange_iff _ _).2 hin)

/-- The bytes a result depends on, where they have been written, are the same bytes in both states. -/
theorem AgreeOnSources.bytesAt {addr n : Nat} (h : AgreeOnSources i s s') (hu : usedRegion s i = some (addr, n))
    (hw : regionWritten s (usedRegion s i)) :
    ∃ bs, s.buf.bytesAt addr n = some bs ∧ s'.buf.bytesAt addr n = some bs := by
  rw [hu] at hw
  obtain ⟨bs, hbs⟩ := (bytesAt_isSome s.buf addr n).2 hw
  obtain ⟨hlen, hbyte⟩ := bytesAt_eq_some.1 hbs
  refine ⟨bs, hbs, bytesAt_eq_some.2 ⟨hlen, fun k hk => ?_⟩⟩
  rw [h.buf (addr + k) (by rw [hu]; exact ⟨Nat.le_add_right addr k, Nat.add_lt_add_left hk addr⟩), hbyte k hk]

/-- Reading one bit writes one scalar register. -/
theorem execBit_eq (sd : SReg) (va : VReg) (sb : SReg) (s : State) :
    execBit sd va sb s = .next (s.writeS sd
      ((s.bitPosition? sb).elim 0 fun i => boolScalar ((s.readV va).testBit i))) := by
  unfold execBit
  cases s.bitPosition? sb <;> rfl

/-! The commands built on a shared operation. -/

/-- SETBIT, CLRBIT and FLIPBIT: the same change of the same bit, or the value copied. -/
theorem completesAlike_changeBit (f : State → Nat → Nat → Nat) {vd va : VReg} {sb : SReg} (hinst : s'.inst = s.inst)
    (hdest : (i.destV, i.destP, i.destS) = (some vd, none, none)) (hr : ∀ t, storedRegion t i = none)
    (h : ∀ t, exec i t = changeBit (f t) vd va sb t) (hf : f s' = f s) (hva : s'.readV va = s.readV va)
    (hsb : s'.bitPosition? sb = s.bitPosition? sb) : CompletesAlike i s s' :=
  completesAlike_value hinst hdest hr ((h s).trans (changeBit_eq ..)) ((h s').trans (changeBit_eq ..))
    (by rw [hf, hva, hsb])

/-- A command that stores bytes, then does no more than write a scalar register. -/
theorem completesAlike_writeRegion {c c' : Word32} {addr addr' : Nat} {bs bs' : List Byte} {k k' : State → State}
    (h : exec i s = writeRegion c s addr bs k) (h' : exec i s' = writeRegion c' s' addr' bs' k')
    (hr : storedRegion s i = some (addr, bs.length)) (hr' : storedRegion s' i = some (addr', bs'.length))
    (hin : regionOk (storedRegion s i)) (hv : i.destV = none) (hp : i.destP = none)
    (hk : ∀ t, (k t).buf = t.buf) (hk' : ∀ t, (k' t).buf = t.buf)
    (hs : ∀ t t' r, i.destS = some r → (k t).readS r = (k' t').readS r) (haddr : addr' = addr) (hbs : bs' = bs) :
    CompletesAlike i s s' := by
  subst haddr hbs
  rw [hr] at hin
  refine ⟨hr'.trans hr.symm, _, _, h.trans (writeRegion_eq hin), h'.trans (writeRegion_eq hin), ?_, ?_, hs _ _, ?_⟩
  · simp [hv]
  · simp [hp]
  · rw [hr]
    intro a ha
    rw [hk, hk', storeBytes_buf, storeBytes_buf, byteAt_setBytes, byteAt_setBytes]
    exact (if_pos ha).trans (if_pos ha).symm

/-- A string command stores the same string and writes the same length. -/
theorem completesAlike_renderTo {c c' : Word32} {sd : SReg} {addr addr' : Nat} {str str' : List Byte}
    (h : exec i s = renderTo c sd addr str s) (h' : exec i s' = renderTo c' sd addr' str' s')
    (hr : storedRegion s i = some (addr, str.length)) (hr' : storedRegion s' i = some (addr', str'.length))
    (hin : regionOk (storedRegion s i)) (hv : i.destV = none) (hp : i.destP = none) (hs : i.destS = some sd)
    (haddr : addr' = addr) (hstr : str' = str) : CompletesAlike i s s' := by
  refine completesAlike_writeRegion h h' hr hr' hin hv hp (fun _ => rfl) (fun _ => rfl) (fun t t' => ?_) haddr hstr
  rw [hs, hstr]
  rintro _ ⟨⟩
  rw [readS_writeS_same, readS_writeS_same]

/-- A COMMAND THAT COMPLETES does so alike in both states: what it writes is computed from what they agree on. -/
theorem exec_alike (h : AgreeOnSources i s s') (hc : Completes i s) : CompletesAlike i s s' := by
  obtain ⟨hdivisor, hnamed, hwritten, hstored⟩ := hc
  have hv := h.v
  have hp := h.p
  have hs := h.scalar
  have hn : ∀ r ∈ i.srcS, s'.natS r = s.natS r := fun _ => h.natS
  cases i with
  | nop => exact ⟨rfl, s, s', rfl, rfl, nofun, nofun, nofun, nofun⟩
  | mov | zero | one | maxv | add | sub | plo | phi | and | or | xor | not | shl | shr | shli | shri | min | max
  | froms =>
    simp only [Instr.srcV, Instr.srcP, Instr.srcS, List.forall_mem_cons] at hv hp hn
    exact completesAlike_value h.inst rfl (fun _ => rfl) rfl rfl (by simp only [hv, hp, hn, h.width])
  | mul pd va vb =>
    exact completesAlike_wide h.inst rfl (fun _ => rfl) rfl rfl (by rw [hv va (.head _), hv vb (.tail _ (.head _))])
  | pisz | clz | ctz | popc | eq | ne | lt | le | gt | ge | cmp | isodd | iseven | sli | sshi | smov =>
    simp only [Instr.srcV, Instr.srcP, Instr.srcS, List.forall_mem_cons] at hv hp hs
    exact completesAlike_scalar rfl (fun _ => rfl) rfl rfl (by simp only [hv, hp, hs, h.width])
  | bit sd va sb =>
    exact completesAlike_scalar rfl (fun _ => rfl) (execBit_eq ..) (execBit_eq ..)
      (by rw [hv va (.head _), h.bitPosition (.head _)])
  | setbit vd va sb =>
    exact completesAlike_changeBit (fun _ a i => a ||| 2 ^ i) h.inst rfl (fun _ => rfl) (fun _ => rfl) rfl
      (hv va (.head _)) (h.bitPosition (.head _))
  | clrbit vd va sb =>
    exact completesAlike_changeBit (fun t a i => a &&& (2 ^ t.width - 1 - 2 ^ i)) h.inst rfl (fun _ => rfl)
      (fun _ => rfl) (by rw [h.width]) (hv va (.head _)) (h.bitPosition (.head _))
  | flipbit vd va sb =>
    exact completesAlike_changeBit (fun _ a i => a ^^^ 2 ^ i) h.inst rfl (fun _ => rfl) (fun _ => rfl) rfl
      (hv va (.head _)) (h.bitPosition (.head _))
  | div vd va vb | mod vd va vb =>
    have hb := hv vb (.tail _ (.head _))
    have hnonzero := hdivisor vb rfl
    exact completesAlike_value h.inst rfl (fun _ => rfl) (divideBy_eq hnonzero) (divideBy_eq (hb ▸ hnonzero))
      (by rw [hv va (.head _), hb])
  | fromw vd sa sb | fromle vd sa sb | frombe vd sa sb =>
    have ha := hn sa (.head _)
    have hb := hn sb (.tail _ (.head _))
    obtain ⟨bs, hbs, hbs'⟩ := h.bytesAt rfl hwritten
    refine completesAlike_value h.inst rfl (fun _ => rfl) (readRegion_eq hnamed hbs)
      (readRegion_eq (bs := bs) ?_ ?_) rfl
    · rw [ha, hb]
      exact hnamed
    · simp only [ha, hb, h.nwords, h.valueBytes]
      exact hbs'
  | lds sd sa =>
    have ha := hn sa (.head _)
    obtain ⟨bs, hbs, hbs'⟩ := h.bytesAt rfl hwritten
    exact completesAlike_scalar rfl (fun _ => rfl) (readRegion_eq hnamed hbs)
      (readRegion_eq (bs := bs) (by rw [ha]; exact hnamed) (by rw [ha]; exact hbs')) rfl
  | tow va sb | tole va sb | tobe va sb =>
    exact completesAlike_writeRegion rfl rfl (by simp [storedRegion]) (by simp [storedRegion]) hstored rfl rfl
      (fun _ => rfl) (fun _ => rfl) (fun _ _ => nofun) (hn sb (.head _)) (by rw [hv va (.head _), h.valueBytes])
  | sts sa sb =>
    exact completesAlike_writeRegion rfl rfl rfl rfl hstored rfl rfl (fun _ => rfl) (fun _ => rfl) (fun _ _ => nofun)
      (hn sa (.head _)) (by rw [hn sb (.tail _ (.head _))])
  | dec sd va sb | hex sd va sb =>
    exact completesAlike_renderTo rfl rfl rfl rfl hstored rfl rfl rfl (hn sb (.head _))
      (by simp only [hv va (.head _), h.nwords])
  | pdec sd pa sb =>
    exact completesAlike_renderTo rfl rfl rfl rfl hstored rfl rfl rfl (hn sb (.head _)) (by rw [hp pa (.head _)])

end

/-! ## The obligations -/

/-- Settles O1: each format reads back what its row lays out. -/
theorem decodeOfEncode : Obligations.DecodeOfEncode := decode_encode

/-- Settles O2: the fields a row reads and the bits it checks make up the word. -/
theorem encodeOfDecode : Obligations.EncodeOfDecode := fun _ _ => encode_of_decode

/-- Settles O3: a row matches exactly the words that decode to its commands, and a word has one decoding. -/
theorem decodeFollowsOpcodeMap : Obligations.DecodeFollowsOpcodeMap := by
  refine ⟨fun c m hm => ?_, fun c i hi => matches_iff_decode.2 ⟨i, hi, rfl⟩, fun c m m' hm hm' => ?_, fun c hno => ?_⟩
  · obtain ⟨i, hi, hmnemonic⟩ := matches_iff_decode.1 hm
    exact ⟨i, hi, hmnemonic, encode_of_decode hi⟩
  · exact Mnemonic.opcode_injective ((and_mask_eq_pat_iff.1 hm).1.symm.trans (and_mask_eq_pat_iff.1 hm').1)
  · exact decode_eq_error fun i hi => hno i.mnemonic (matches_iff_decode.2 ⟨i, hi, rfl⟩)

/-- Settles O4: each legal word is the encoding of its command, and in the last one slot d is no wide index. -/
theorem specExampleWordsDecode : Obligations.SpecExampleWordsDecode :=
  ⟨decode_encode (.add 1 2 3), decode_encode (.mul 1 2 3), decode_encode (.shli 0 1 513), decode_encode (.sli 5 0xBEEF),
    decode_encode (.tole 7 2), decode_encode (.pdec 1 3 4), decode_encode .nop, rfl⟩

/-- Settles O5: a word that decodes has the opcode of its command's row and matches it, so every other word is rejected;
an accepted one enters IllegalCommand and completes. -/
theorem illegalWordRaisesIllegalCommand : Obligations.IllegalWordRaisesIllegalCommand := by
  refine ⟨fun c hno => ?_, fun c m hop hno => ?_, fun s c r hbusy hturn hillegal => ?_, decode_encode .nop, _, rfl⟩
  · exact decode_eq_error fun i hi => hno i.mnemonic (opByte_of_decode hi)
  · refine decode_eq_error fun i hi => hno (matches_iff_decode.2 ⟨i, hi, ?_⟩)
    exact Mnemonic.opcode_injective ((opByte_of_decode hi).symm.trans hop)
  · refine ⟨_, ?_, errorEntry_taken .illegalCommand c s.takeTurn.complete⟩
    rw [step_eq_engineMoves_of_engine hturn hbusy, engineMoves, executeWord, hillegal]
    rfl

/-- Settles O6: the chunks of u64(x), loaded from the top down, leave it in the register. -/
theorem liExpansionLoadsConstant : Obligations.LiExpansionLoadsConstant := by
  intro s sd x _ _
  have hlen : (Pseudo.li sd x).expand.length = liCount (u64 x).toNat := liExpand_length sd _
  have hbits : bitLen (u64 x).toNat ≤ 64 := bitLen_le (u64 x).isLt
  refine ⟨hlen ▸ one_le_liCount _, ?_, _, execAll_liExpand s sd _, ?_, onlyWritesS_writeS s sd _⟩
  · rw [hlen]
    unfold liCount
    omega
  · rw [readS_writeS_same, BitVec.ofNat_toNat, BitVec.setWidth_eq]
    rfl

/-- Settles O40: the result of each command is computed from its operands and the bytes it uses. -/
theorem resultDependsOnlyOnSources : Obligations.ResultDependsOnlyOnSources :=
  fun _ _ _ hinst hv hp hs hbuf =>
    exec_alike ⟨hinst.symm, fun r hr => (hv r hr).symm, fun r hr => (hp r hr).symm, fun r hr => (hs r hr).symm,
      fun a ha => (hbuf a ha).symm⟩

/-- Settles O41: at its turn the engine executes the accepted word, then BUSY falls. -/
theorem stepRunsDecodedCommand : Obligations.StepRunsDecodedCommand := by
  intro s c i hbusy hturn hdecode
  rw [step_eq_engineMoves_of_engine hturn hbusy, engineMoves, executeWord_of_decode hdecode]
  cases exec i s.takeTurn <;> rfl

end Sys2Proof.Machine

/-! PROOFS. The family of 40_representation.md: MOV, the constants and NOP. -/

namespace Sys2Proof.Machine

/-- A command that is one write to a value register leaves a value below 2^W there and changes nothing else. -/
theorem writesV_of_exec_eq {i : Instr} {s : State} {d : VReg} {x : Nat} (h : exec i s = .next (s.writeV d x))
    (hx : x < 2 ^ s.width) : WritesV i s d x :=
  ⟨_, h, readV_writeV_same hx, onlyWritesV_writeV s d x⟩

/-- Settles O7: each word is the encoding of its command, and every command but NOP is one write of a value below 2^W. -/
theorem representationResults : Obligations.RepresentationResults := by
  refine ⟨⟨decode_encode .nop, fun _ => rfl⟩, fun s vd va => ⟨decode_encode (.mov vd va), ?_⟩,
    fun s vd => ⟨decode_encode (.zero vd), ?_⟩, fun s vd => ⟨decode_encode (.one vd), ?_⟩,
    fun s vd => ⟨decode_encode (.maxv vd), ?_⟩⟩
  · exact writesV_of_exec_eq rfl (readV_lt s va)
  · exact writesV_of_exec_eq rfl s.width.two_pow_pos
  · exact writesV_of_exec_eq rfl (Nat.one_lt_two_pow (width_pos s).ne')
  · exact writesV_of_exec_eq rfl (Nat.sub_one_lt s.width.two_pow_pos.ne')

end Sys2Proof.Machine

/-! PROOFS. The family of 41_arithmetic.md: the word loops and the divisions of the reference compute the values the
meanings state, and the results of the arithmetic commands. -/

namespace Sys2Proof.Machine.Reference

/-! ## The words of a natural (00_scope.md R11) -/

theorem two_pow_words_succ (n : Nat) : 2 ^ (64 * (n + 1)) = 2 ^ 64 * 2 ^ (64 * n) := by
  rw [Nat.mul_succ, Nat.add_comm, Nat.pow_add]

@[simp] theorem wordsOf_zero (n : Nat) : wordsOf n 0 = List.replicate n 0 := by
  induction n with
  | zero => rfl
  | succ n ih => simp [wordsOf, ih, List.replicate_succ]

/-- What lies above the n words is not seen. -/
theorem wordsOf_add_two_pow (n x : Nat) : wordsOf n (2 ^ (64 * n) + x) = wordsOf n x := by
  induction n generalizing x with
  | zero => rfl
  | succ n ih =>
    rw [wordsOf, wordsOf, two_pow_words_succ, Nat.mul_add_mod, Nat.mul_add_div (Nat.two_pow_pos 64), ih]

/-- The words of a natural compose to it, but for what lies above them. -/
theorem valueOf_wordsOf (n x : Nat) : valueOf (wordsOf n x) = x % 2 ^ (64 * n) := by
  induction n generalizing x with
  | zero => exact (Nat.mod_one x).symm
  | succ n ih => rw [wordsOf, valueOf, ih, two_pow_words_succ, Nat.mod_mul]

/-- Word i of a natural's words. -/
theorem wordsOf_getD {n i : Nat} (x : Nat) (h : i < n) : (wordsOf n x).getD i 0 = wordAt x i := by
  induction n generalizing x i with
  | zero => exact absurd h i.not_lt_zero
  | succ n ih =>
    cases i with
    | zero => simp [wordsOf, wordAt]
    | succ i =>
      rw [wordsOf, List.getD_cons_succ, ih _ (Nat.lt_of_succ_lt_succ h), wordAt, wordAt, Nat.div_div_eq_div_mul,
        two_pow_words_succ]

/-- One word more of a natural: word m at its weight. -/
theorem mod_two_pow_words_succ (x m : Nat) :
    x % 2 ^ (64 * (m + 1)) = x % 2 ^ (64 * m) + 2 ^ (64 * m) * wordAt x m := by
  rw [two_pow_words_succ, Nat.mul_comm, Nat.mod_mul, wordAt]

/-! ## Addition and subtraction (R120, R121) -/

/-- Each carry is what the sum of the lowest words leaves to the words above. -/
theorem addCarry_wordsOf (n x y c : Nat) : addCarry (wordsOf n x) (wordsOf n y) c = wordsOf n (x + y + c) := by
  induction n generalizing x y c with
  | zero => rfl
  | succ n ih =>
    have hword : (x % 2 ^ 64 + y % 2 ^ 64 + c) % 2 ^ 64 = (x + y + c) % 2 ^ 64 := by omega
    have hrest : x / 2 ^ 64 + y / 2 ^ 64 + (x % 2 ^ 64 + y % 2 ^ 64 + c) / 2 ^ 64 = (x + y + c) / 2 ^ 64 := by omega
    rw [wordsOf, wordsOf, addCarry, ih, hword, hrest, wordsOf]

/-- Subtraction undoes addition: where the difference of the lowest words is negative, their sum carried. -/
theorem subBorrow_wordsOf_add (n y z : Nat) {brw : Nat} (h : brw ≤ 1) :
    subBorrow (wordsOf n (y + z + brw)) (wordsOf n y) brw = wordsOf n z := by
  induction n generalizing y z brw with
  | zero => rfl
  | succ n ih =>
    rw [wordsOf, wordsOf, subBorrow, wordsOf]
    set d : Int := ((y + z + brw) % 2 ^ 64 : Nat) - (y % 2 ^ 64 : Nat) - brw with hd
    have hword : (d % 2 ^ 64).toNat = z % 2 ^ 64 := by omega
    obtain ⟨brw', hle, hborrow, hrest⟩ : ∃ brw' ≤ 1, (if d < 0 then 1 else 0 : Int) = (brw' : Nat) ∧
        (y + z + brw) / 2 ^ 64 = y / 2 ^ 64 + z / 2 ^ 64 + brw' := by
      by_cases hneg : d < 0
      · exact ⟨1, le_rfl, if_pos hneg, by omega⟩
      · exact ⟨0, Nat.zero_le 1, if_neg hneg, by omega⟩
    rw [hword, hborrow, hrest, ih _ _ hle]

/-- The subtraction loop wraps modulo 2^(64n). -/
theorem subBorrow_wordsOf (n x : Nat) {y : Nat} (h : y ≤ 2 ^ (64 * n)) :
    subBorrow (wordsOf n x) (wordsOf n y) 0 = wordsOf n (2 ^ (64 * n) + x - y) := by
  have hsum : y + (2 ^ (64 * n) + x - y) + 0 = 2 ^ (64 * n) + x := by omega
  have hloop := subBorrow_wordsOf_add n y (2 ^ (64 * n) + x - y) (Nat.zero_le 1)
  rwa [hsum, wordsOf_add_two_pow] at hloop

/-! ## Multiplication (R122) -/

/-- Carrying upward adds; where nothing is left to carry, the words stay as they are. -/
theorem carryUp_wordsOf (n x c : Nat) : carryUp (wordsOf n x) c = wordsOf n (x + c) := by
  induction n generalizing x c with
  | zero => rfl
  | succ n ih =>
    rw [wordsOf, carryUp]
    by_cases hc : c = 0
    · rw [if_pos hc, hc]
      rfl
    · have hword : (x % 2 ^ 64 + c) % 2 ^ 64 = (x + c) % 2 ^ 64 := by omega
      have hrest : x / 2 ^ 64 + (x % 2 ^ 64 + c) / 2 ^ 64 = (x + c) / 2 ^ 64 := by omega
      rw [if_neg hc, ih, hword, hrest, wordsOf]

/-- Adding at word k adds at that word's weight. -/
theorem addAt_wordsOf {n k : Nat} (x c : Nat) (h : k ≤ n) :
    addAt (wordsOf n x) k c = wordsOf n (x + 2 ^ (64 * k) * c) := by
  induction k generalizing n x with
  | zero => simp [addAt, carryUp_wordsOf]
  | succ k ih =>
    obtain ⟨n, rfl⟩ := Nat.exists_eq_add_one.2 (Nat.lt_of_lt_of_le k.succ_pos h)
    have hcons : addAt (wordsOf (n + 1) x) (k + 1) c = x % 2 ^ 64 :: addAt (wordsOf n (x / 2 ^ 64)) k c := rfl
    rw [hcons, ih _ (Nat.le_of_succ_le_succ h), wordsOf, two_pow_words_succ, Nat.mul_assoc, Nat.add_mul_mod_self_left,
      Nat.add_mul_div_left _ _ (Nat.two_pow_pos 64)]

/-- One word pair adds the product of its words at their common weight; the skipped product is 0. -/
theorem mulPair_wordsOf {n i j : Nat} (x y z : Nat) (hi : i < n) (hj : j < n) :
    mulPair (wordsOf n x) (wordsOf n y) i j (wordsOf (2 * n) z) =
      wordsOf (2 * n) (z + 2 ^ (64 * (i + j)) * (wordAt x i * wordAt y j)) := by
  rw [mulPair, wordsOf_getD x hi, wordsOf_getD y hj]
  by_cases hzero : wordAt x i = 0 ∨ wordAt y j = 0
  · rw [if_pos hzero, Nat.mul_eq_zero.2 hzero, Nat.mul_zero, Nat.add_zero]
  · rw [if_neg hzero]
    have hhalves := Nat.mod_add_div (wordAt x i * wordAt y j) (2 ^ 64)
    dsimp only
    rw [addAt_wordsOf _ _ (by omega), addAt_wordsOf _ _ (by omega), two_pow_words_succ, Nat.mul_comm (2 ^ 64),
      Nat.mul_assoc, Nat.add_assoc, ← Nat.mul_add, hhalves]

/-- The inner loop up to word m adds word i times the low m words. -/
theorem foldl_mulPair_wordsOf {n i m : Nat} (x y z : Nat) (hi : i < n) (hm : m ≤ n) :
    (List.range m).foldl (fun r j => mulPair (wordsOf n x) (wordsOf n y) i j r) (wordsOf (2 * n) z) =
      wordsOf (2 * n) (z + 2 ^ (64 * i) * (wordAt x i * (y % 2 ^ (64 * m)))) := by
  induction m with
  | zero => simp [Nat.mod_one]
  | succ m ih =>
    rw [List.range_succ, List.foldl_append, ih (Nat.le_of_succ_le hm), List.foldl_cons, List.foldl_nil,
      mulPair_wordsOf _ _ _ hi hm, mod_two_pow_words_succ]
    congr 1
    ring

/-- The outer loop up to word m adds the product of the low m words. -/
theorem foldl_foldl_mulPair_wordsOf {n m : Nat} (x y : Nat) (hm : m ≤ n) :
    (List.range m).foldl
        (fun r i => (List.range n).foldl (fun r j => mulPair (wordsOf n x) (wordsOf n y) i j r) r)
        (wordsOf (2 * n) 0) =
      wordsOf (2 * n) (x % 2 ^ (64 * m) * (y % 2 ^ (64 * n))) := by
  induction m with
  | zero => simp [Nat.mod_one]
  | succ m ih =>
    rw [List.range_succ, List.foldl_append, ih (Nat.le_of_succ_le hm), List.foldl_cons, List.foldl_nil,
      foldl_mulPair_wordsOf _ _ _ hm le_rfl, mod_two_pow_words_succ x]
    congr 1
    ring

/-- The schoolbook multiplication gives the words of the exact product. -/
theorem mulWords_wordsOf {n x y : Nat} (hx : x < 2 ^ (64 * n)) (hy : y < 2 ^ (64 * n)) :
    mulWords n (wordsOf n x) (wordsOf n y) = wordsOf (2 * n) (x * y) := by
  have hloop := foldl_foldl_mulPair_wordsOf x y (le_refl n)
  rwa [wordsOf_zero, Nat.mod_eq_of_lt hx, Nat.mod_eq_of_lt hy] at hloop

/-! ## Division (R123, R126) -/

/-- One step of long division in base k: the remainder of the digits above, with the next digit below it. -/
theorem div_mod_next_digit {d : Nat} (hd : 0 < d) (t k l : Nat) :
    (t * k + l) / d = t / d * k + (t % d * k + l) / d ∧ (t * k + l) % d = (t % d * k + l) % d := by
  have hsplit : t * k + l = d * (t / d * k) + (t % d * k + l) := by
    calc t * k + l = (d * (t / d) + t % d) * k + l := by rw [Nat.div_add_mod]
      _ = d * (t / d * k) + (t % d * k + l) := by ring
  rw [hsplit, Nat.mul_add_div hd, Nat.mul_add_mod]
  exact ⟨rfl, rfl⟩

/-- The loop divides what the remainder so far and the bits still to come make up. -/
theorem longDivLoop_eq {a b r : Nat} (i q : Nat) (hr : r < b) :
    longDivLoop a b i q r = (q + (r * 2 ^ i + a % 2 ^ i) / b, (r * 2 ^ i + a % 2 ^ i) % b) := by
  induction i generalizing q r with
  | zero => simp [longDivLoop, Nat.mod_one, Nat.div_eq_of_lt hr, Nat.mod_eq_of_lt hr]
  | succ i ih =>
    let r' := 2 * r + a / 2 ^ i % 2
    have hbits : r * 2 ^ (i + 1) + a % 2 ^ (i + 1) = r' * 2 ^ i + a % 2 ^ i := by
      rw [Nat.mod_pow_succ]
      ring
    have hloop : longDivLoop a b (i + 1) q r =
      if b ≤ r' then longDivLoop a b i (q + 2 ^ i) (r' - b) else longDivLoop a b i q r' := rfl
    rw [hloop, hbits]
    by_cases hle : b ≤ r'
    · have hone : r' * 2 ^ i + a % 2 ^ i = b * 2 ^ i + ((r' - b) * 2 ^ i + a % 2 ^ i) := by
        rw [← Nat.add_assoc, ← Nat.add_mul, Nat.add_sub_cancel' hle]
      rw [if_pos hle, ih _ (by omega), hone, Nat.mul_add_div (Nat.zero_lt_of_lt hr), Nat.mul_add_mod, Nat.add_assoc]
    · rw [if_neg hle, ih _ (Nat.lt_of_not_le hle)]

/-- Both fast paths and the loop give quotient and remainder. -/
theorem longDiv_eq {w a b : Nat} (ha : a < 2 ^ w) (hb : 0 < b) : longDiv w a b = (a / b, a % b) := by
  unfold longDiv
  by_cases hlt : a < b
  · rw [if_pos hlt, Nat.div_eq_of_lt hlt, Nat.mod_eq_of_lt hlt]
  · rw [if_neg hlt]
    by_cases heq : a = b
    · rw [if_pos heq, heq, Nat.div_self hb, Nat.mod_self]
    · rw [if_neg heq, longDivLoop_eq w 0 hb, Nat.mod_eq_of_lt ha, Nat.zero_mul, Nat.zero_add, Nat.zero_add]

/-- The two half-word steps of a word divide the word with the running remainder above it. -/
theorem divSmall_cons {d : Nat} (hd : 0 < d) (w : Nat) (ws : List Nat) :
    divSmall d (w :: ws) = (((divSmall d ws).2 * 2 ^ 64 + w) / d :: (divSmall d ws).1,
      ((divSmall d ws).2 * 2 ^ 64 + w) % d) := by
  set rem := (divSmall d ws).2
  have hsplit : rem * 2 ^ 64 + w = (rem * 2 ^ 32 + w / 2 ^ 32) * 2 ^ 32 + w % 2 ^ 32 := by omega
  obtain ⟨hquotient, hremainder⟩ := div_mod_next_digit hd (rem * 2 ^ 32 + w / 2 ^ 32) (2 ^ 32) (w % 2 ^ 32)
  rw [hsplit, hquotient, hremainder]
  rfl

/-- The words of the quotient and the last remainder are those of the whole value. -/
theorem divSmall_eq {d : Nat} (hd : 0 < d) (ws : List Nat) :
    valueOf (divSmall d ws).1 = valueOf ws / d ∧ (divSmall d ws).2 = valueOf ws % d := by
  induction ws with
  | nil => simp [divSmall, valueOf]
  | cons w ws ih =>
    obtain ⟨hquotient, hremainder⟩ := ih
    obtain ⟨hdiv, hmod⟩ := div_mod_next_digit hd (valueOf ws) (2 ^ 64) w
    have hvalue : valueOf (w :: ws) = valueOf ws * 2 ^ 64 + w := by rw [valueOf, Nat.add_comm, Nat.mul_comm]
    rw [divSmall_cons hd, hremainder, hvalue, hdiv, hmod, valueOf, hquotient, Nat.add_comm, Nat.mul_comm]
    exact ⟨rfl, rfl⟩

theorem divSmall_length (d : Nat) (ws : List Nat) : (divSmall d ws).1.length = ws.length := by
  induction ws with
  | nil => rfl
  | cons w ws ih => exact congrArg Nat.succ ih

/-- Each word of the quotient is below 2^64, because the remainder above it is below the divisor. -/
theorem divSmall_words_lt {d : Nat} (hd : 0 < d) {ws : List Nat} (hws : ∀ w ∈ ws, w < 2 ^ 64) :
    ∀ w ∈ (divSmall d ws).1, w < 2 ^ 64 := by
  induction ws with
  | nil => nofun
  | cons w ws ih =>
    rw [List.forall_mem_cons] at hws
    obtain ⟨hw, hrest⟩ := hws
    have hrem : (divSmall d ws).2 < d := (divSmall_eq hd ws).2 ▸ Nat.mod_lt _ hd
    rw [divSmall_cons hd, List.forall_mem_cons]
    have hscaled : ((divSmall d ws).2 + 1) * 2 ^ 64 ≤ d * 2 ^ 64 := Nat.mul_le_mul_right _ hrem
    exact ⟨Nat.div_lt_of_lt_mul (by omega), ih hrest⟩

end Sys2Proof.Machine.Reference

namespace Sys2Proof.Machine

section
variable {i : Instr} {s : State}

/-! ## Commands that are one write -/

/-- A command that is one write to a wide register leaves a value below 2^(2W) there and changes nothing else. -/
theorem writesP_of_exec_eq {d : PReg} {x : Nat} (h : exec i s = .next (s.writeP d x)) (hx : x < 2 ^ (2 * s.width)) :
    WritesP i s d x :=
  ⟨_, h, readP_writeP_same hx, onlyWrites_writeP s d x⟩

/-- A command that is one write to a scalar register changes that register alone. -/
theorem writesS_of_exec_eq {d : SReg} {x : Scalar} (h : exec i s = .next (s.writeS d x)) : WritesS i s d x :=
  ⟨_, h, readS_writeS_same s d x, onlyWritesS_writeS s d x⟩

/-- Division by zero is entered and nothing is written (R124, R125). -/
theorem endsWithError_of_divideBy {f : Nat → Nat → Nat} {vd va vb : VReg}
    (h : exec i s = divideBy (encode i) f vd va vb s) (hzero : s.readV vb = 0) : EndsWithError i s .divisionByZero :=
  ⟨_, h.trans (if_pos hzero), errorEntry_taken .divisionByZero (encode i) s⟩

/-- The exact product of two values fits a wide register (10_state.md R22). -/
theorem readV_mul_readV_lt (s : State) (va vb : VReg) : s.readV va * s.readV vb < 2 ^ (2 * s.width) := by
  rw [Nat.two_mul, Nat.pow_add]
  exact Nat.mul_lt_mul'' (readV_lt s va) (readV_lt s vb)

/-- The scalar of a test for 0. -/
theorem boolScalar_beq_zero (x : Nat) : boolScalar (x == 0) = if x = 0 then 1 else 0 := by simp [boolScalar]

/-- The difference modulo 2^W, with the modulus added beforehand or with the sign. -/
theorem sub_emod_toNat {a b m : Nat} (h : b ≤ m) : (((a : Int) - b) % m).toNat = (m + a - b) % m := by
  have hcast : ((m + a - b : Nat) : Int) = (a - b : Int) + m := by omega
  rw [← Int.toNat_natCast ((m + a - b) % m), Int.natCast_mod, hcast, Int.add_emod_right]

end

/-! ## The obligations -/

/-- Settles O31: the loop divides the bits read so far, and after all w bits that is the dividend. -/
theorem longDivComputesQuotientAndRemainder : Obligations.LongDivComputesQuotientAndRemainder :=
  fun _ _ _ ha hb => Reference.longDiv_eq ha hb

/-- Settles O32: each word is two digits of a long division in base 2^32. -/
theorem divSmallComputesQuotientAndRemainder : Obligations.DivSmallComputesQuotientAndRemainder := by
  intro d ws hd _ hws
  obtain ⟨hquotient, hremainder⟩ := Reference.divSmall_eq hd ws
  exact ⟨hquotient, hremainder, Reference.divSmall_length d ws, Reference.divSmall_words_lt hd hws⟩

/-- Settles O8: the value written is the one the loop's words compose to. -/
theorem addSubResults : Obligations.AddSubResults := by
  refine ⟨fun s vd va vb => ⟨decode_encode (.add vd va vb), ?_⟩, fun s vd va vb => ⟨decode_encode (.sub vd va vb), ?_⟩⟩
  · have hadd : WritesV (.add vd va vb) s vd ((s.readV va + s.readV vb) % 2 ^ s.width) :=
      writesV_of_exec_eq rfl (Nat.mod_lt _ s.width.two_pow_pos)
    refine ⟨hadd, ?_⟩
    rwa [Reference.addCarry_wordsOf, Reference.valueOf_wordsOf]
  · have hsub : WritesV (.sub vd va vb) s vd ((2 ^ s.width + s.readV va - s.readV vb) % 2 ^ s.width) :=
      writesV_of_exec_eq rfl (Nat.mod_lt _ s.width.two_pow_pos)
    have hb : s.readV vb ≤ 2 ^ s.width := (readV_lt s vb).le
    constructor
    · rwa [← sub_emod_toNat hb, Nat.cast_pow, Nat.cast_ofNat] at hsub
    · rwa [Reference.subBorrow_wordsOf _ _ hb, Reference.valueOf_wordsOf]

/-- Settles O9: the product fits the wide register, and the schoolbook loop gives its words. -/
theorem mulResult : Obligations.MulResult := by
  intro s pd va vb
  have hlt := readV_mul_readV_lt s va vb
  have hmul : WritesP (.mul pd va vb) s pd (s.readV va * s.readV vb) := writesP_of_exec_eq rfl hlt
  have hwidth : 2 * s.width = 64 * (2 * s.nwords) := Nat.mul_left_comm 2 64 s.nwords
  refine ⟨decode_encode (.mul pd va vb), hmul, ?_⟩
  rwa [Reference.mulWords_wordsOf (readV_lt s va) (readV_lt s vb), Reference.valueOf_wordsOf, ← hwidth,
    Nat.mod_eq_of_lt hlt]

/-- Settles O11: the long division gives the quotient and remainder the commands write, neither above the dividend. -/
theorem divModResults : Obligations.DivModResults := by
  intro s vd va vb
  refine ⟨decode_encode (.div vd va vb), decode_encode (.mod vd va vb), fun hb => ?_, fun hzero =>
    ⟨endsWithError_of_divideBy rfl hzero, endsWithError_of_divideBy rfl hzero⟩⟩
  have ha := readV_lt s va
  rw [Reference.longDiv_eq ha (Nat.pos_of_ne_zero hb)]
  exact ⟨writesV_of_exec_eq (divideBy_eq hb) ((Nat.div_le_self _ _).trans_lt ha),
    writesV_of_exec_eq (divideBy_eq hb) ((Nat.mod_le _ _).trans_lt ha)⟩

/-- Settles O12: the low half and the high half of a wide value are both below 2^W. -/
theorem wideProductReads : Obligations.WideProductReads := by
  refine ⟨fun s vd pa => ⟨decode_encode (.plo vd pa), writesV_of_exec_eq rfl (Nat.mod_lt _ s.width.two_pow_pos)⟩,
    fun s vd pa => ⟨decode_encode (.phi vd pa), writesV_of_exec_eq rfl ?_⟩,
    fun s sd pa => ⟨decode_encode (.pisz sd pa), ?_⟩⟩
  · have hlt := readP_lt s pa
    rw [Nat.two_mul, Nat.pow_add] at hlt
    exact Nat.div_lt_of_lt_mul hlt
  · rw [← boolScalar_beq_zero]
    exact writesS_of_exec_eq rfl

end Sys2Proof.Machine

/-! PROOFS. The family of 42_bit.md: logic and its lanes, the shifts and their word loops, the single bits, the counters
and their word scans. -/

namespace Sys2Proof.Machine

/-! ## Logic (R160 to R163, R176) -/

/-- A command that is one write to a value register, told by the bits of what it writes. -/
theorem writesBits_of_exec_eq {i : Instr} {s : State} {d : VReg} {x : Nat} {bit : Nat → Bool}
    (h : exec i s = .next (s.writeV d x)) (hx : x < 2 ^ s.width) (hbit : ∀ k, x.testBit k = bit k) :
    ∃ t, exec i s = .next t ∧ OnlyWritesV d s t ∧ ∀ k, (t.readV d).testBit k = bit k :=
  ⟨_, h, onlyWritesV_writeV s d x, by rwa [readV_writeV_same hx]⟩

/-- The complement over w bits. -/
theorem testBit_two_pow_sub_one_sub {w x : Nat} (h : x < 2 ^ w) (k : Nat) :
    (2 ^ w - 1 - x).testBit k = (decide (k < w) && !x.testBit k) := by
  rw [Nat.sub_sub, Nat.add_comm 1, Nat.testBit_two_pow_sub_succ h]

theorem testBit_wordAt (x j k : Nat) : (wordAt x j).testBit k = (decide (k < 64) && x.testBit (64 * j + k)) := by
  rw [wordAt, Nat.testBit_mod_two_pow, Nat.testBit_div_two_pow, Nat.add_comm]

theorem wordAt_lt (x j : Nat) : wordAt x j < 2 ^ 64 := Nat.mod_lt _ (Nat.two_pow_pos 64)

/-- Settles O13: the value written is below 2^W and has the stated bits. -/
theorem logicResults : Obligations.LogicResults := by
  intro s vd va vb
  have ha := readV_lt s va
  have hb := readV_lt s vb
  refine ⟨⟨decode_encode (.and vd va vb), ?_⟩, ⟨decode_encode (.or vd va vb), ?_⟩,
    ⟨decode_encode (.xor vd va vb), ?_⟩, decode_encode (.not vd va), ?_⟩
  · exact writesBits_of_exec_eq rfl (Nat.and_lt_two_pow _ hb) fun _ => Nat.testBit_and ..
  · exact writesBits_of_exec_eq rfl (Nat.or_lt_two_pow ha hb) fun _ => Nat.testBit_or ..
  · exact writesBits_of_exec_eq rfl (Nat.xor_lt_two_pow ha hb) fun _ => Nat.testBit_xor ..
  · have hlt : 2 ^ s.width - 1 - s.readV va < 2 ^ s.width := by omega
    refine ⟨_, rfl, onlyWritesV_writeV s vd _, readV_writeV_same hlt, fun k hk => ?_⟩
    rw [readV_writeV_same hlt, testBit_two_pow_sub_one_sub ha, decide_eq_true hk, Bool.true_and]

/-- Settles O14: bit k of word j is bit 64j + k of the value. -/
theorem logicIsLanewise : Obligations.LogicIsLanewise := by
  intro s t vd va vb j hj
  obtain ⟨⟨-, _, hand, -, handBits⟩, ⟨-, _, hor, -, horBits⟩, ⟨-, _, hxor, -, hxorBits⟩, -, _, hnot, -, -, hnotBits⟩ :=
    logicResults s vd va vb
  refine ⟨fun h => ?_, fun h => ?_, fun h => ?_, fun h => ?_⟩
  · cases h.symm.trans hand
    exact Nat.eq_of_testBit_eq fun k => by simp [testBit_wordAt, handBits, Bool.and_assoc, Bool.and_left_comm]
  · cases h.symm.trans hor
    exact Nat.eq_of_testBit_eq fun k => by simp [testBit_wordAt, horBits, Bool.and_or_distrib_left]
  · cases h.symm.trans hxor
    exact Nat.eq_of_testBit_eq fun k => by simp [testBit_wordAt, hxorBits, Bool.and_xor_distrib_left]
  · cases h.symm.trans hnot
    refine Nat.eq_of_testBit_eq fun k => ?_
    rw [testBit_two_pow_sub_one_sub (wordAt_lt ..), testBit_wordAt, testBit_wordAt]
    by_cases hk : k < 64
    · have hin : 64 * j + k < s.width := by unfold State.width; omega
      simp [hk, hnotBits _ hin]
    · simp [hk]

/-! ## Shifts (R164 to R167) -/

theorem mul_two_pow_mod_eq_zero {w n : Nat} (a : Nat) (h : w ≤ n) : a * 2 ^ n % 2 ^ w = 0 :=
  Nat.mod_eq_zero_of_dvd ((Nat.pow_dvd_pow 2 h).mul_left a)

theorem div_two_pow_eq_zero {w a n : Nat} (ha : a < 2 ^ w) (h : w ≤ n) : a / 2 ^ n = 0 :=
  Nat.div_eq_of_lt (ha.trans_le (Nat.pow_le_pow_right two_pos h))

/-- The test of the count against the width changes no result. -/
theorem shiftLeft_eq (w a n : Nat) : shiftLeft w a n = a * 2 ^ n % 2 ^ w := by
  unfold shiftLeft
  split
  next h => exact (mul_two_pow_mod_eq_zero a h).symm
  next => rw [Nat.shiftLeft_eq]

/-- The test of the count against the width changes no result. -/
theorem shiftRight_eq {w a : Nat} (ha : a < 2 ^ w) (n : Nat) : shiftRight w a n = a / 2 ^ n := by
  unfold shiftRight
  split
  next h => exact (div_two_pow_eq_zero ha h).symm
  next => rw [Nat.shiftRight_eq_div_pow]

theorem zextImm_toNat (x : Imm16) : (zextImm x).toNat = x.toNat := by
  rw [zextImm, BitVec.toNat_setWidth_of_le (by decide)]

section
variable {i : Instr} {s : State} {vd va : VReg} {n : Nat}

/-- A command that shifts left by n, in whatever form it takes its count. -/
theorem writesV_of_exec_eq_shiftLeft (h : exec i s = .next (s.writeV vd (shiftLeft s.width (s.readV va) n))) :
    WritesV i s vd (s.readV va * 2 ^ n % 2 ^ s.width) := by
  rw [shiftLeft_eq] at h
  exact writesV_of_exec_eq h (Nat.mod_lt _ s.width.two_pow_pos)

/-- A command that shifts right by n, in whatever form it takes its count. -/
theorem writesV_of_exec_eq_shiftRight (h : exec i s = .next (s.writeV vd (shiftRight s.width (s.readV va) n))) :
    WritesV i s vd (s.readV va / 2 ^ n) := by
  rw [shiftRight_eq (readV_lt s va)] at h
  exact writesV_of_exec_eq h ((Nat.div_le_self _ _).trans_lt (readV_lt s va))

end

theorem writesV_shl (s : State) (vd va : VReg) (sb : SReg) :
    WritesV (.shl vd va sb) s vd (s.readV va * 2 ^ (s.readS sb).toNat % 2 ^ s.width) :=
  writesV_of_exec_eq_shiftLeft rfl

theorem writesV_shr (s : State) (vd va : VReg) (sb : SReg) :
    WritesV (.shr vd va sb) s vd (s.readV va / 2 ^ (s.readS sb).toNat) :=
  writesV_of_exec_eq_shiftRight rfl

theorem writesV_shli (s : State) (vd va : VReg) (x : Imm16) :
    WritesV (.shli vd va x) s vd (s.readV va * 2 ^ x.toNat % 2 ^ s.width) := by
  rw [← zextImm_toNat]
  exact writesV_of_exec_eq_shiftLeft rfl

theorem writesV_shri (s : State) (vd va : VReg) (x : Imm16) :
    WritesV (.shri vd va x) s vd (s.readV va / 2 ^ x.toNat) := by
  rw [← zextImm_toNat]
  exact writesV_of_exec_eq_shiftRight rfl

/-- At counts of W and more both results are 0. -/
theorem writesV_zero_of_width_le {l r : Instr} {s : State} {vd va : VReg} {n : Nat}
    (hl : WritesV l s vd (s.readV va * 2 ^ n % 2 ^ s.width)) (hr : WritesV r s vd (s.readV va / 2 ^ n))
    (h : s.width ≤ n) : WritesV l s vd 0 ∧ WritesV r s vd 0 := by
  rw [mul_two_pow_mod_eq_zero _ h] at hl
  rw [div_two_pow_eq_zero (readV_lt s va) h] at hr
  exact ⟨hl, hr⟩

/-- Settles O15: the test of the count against the width changes no result, so one formula holds at every count. -/
theorem shiftResults : Obligations.ShiftResults := by
  refine ⟨fun s vd va sb => ?_, fun s vd va x => ?_⟩
  · have hl := writesV_shl s vd va sb
    have hr := writesV_shr s vd va sb
    exact ⟨decode_encode (.shl vd va sb), decode_encode (.shr vd va sb), hl, hr, writesV_zero_of_width_le hl hr⟩
  · have hl := writesV_shli s vd va x
    have hr := writesV_shri s vd va x
    exact ⟨decode_encode (.shli vd va x), decode_encode (.shri vd va x), hl, hr, writesV_zero_of_width_le hl hr⟩

/-! ## The two-stage word loops (R164, R165) -/

namespace Reference

/-- Dividing by a power of 2^64 moves whole words down. -/
theorem wordAt_div_two_pow_words (x m j : Nat) : wordAt (x / 2 ^ (64 * m)) j = wordAt x (j + m) := by
  rw [wordAt, wordAt, Nat.div_div_eq_div_mul, ← pow_add, ← Nat.mul_add, Nat.add_comm m]

theorem wordAt_succ (x j : Nat) : wordAt x (j + 1) = x / 2 ^ (64 * j) / 2 ^ 64 % 2 ^ 64 := by
  rw [wordAt, Nat.div_div_eq_div_mul, ← pow_add, Nat.mul_succ]

/-- Multiplying by a power of 2^64 moves whole words up and fills with zeros. -/
theorem wordAt_mul_two_pow_words (x m j : Nat) :
    wordAt (x * 2 ^ (64 * m)) j = if m ≤ j then wordAt x (j - m) else 0 := by
  split
  next h =>
    have hj : 64 * j = 64 * (j - m) + 64 * m := by omega
    rw [wordAt, hj, pow_add, Nat.mul_div_mul_right _ _ (Nat.two_pow_pos _), wordAt]
  next h =>
    have hm : 64 * m = 64 * (m - j - 1) + 64 + 64 * j := by omega
    rw [wordAt, hm, pow_add, ← Nat.mul_assoc, Nat.mul_div_cancel _ (Nat.two_pow_pos _), pow_add, ← Nat.mul_assoc,
      Nat.mul_mod_left]

theorem wordAt_eq_zero {n x j : Nat} (hx : x < 2 ^ (64 * n)) (h : n ≤ j) : wordAt x j = 0 := by
  rw [wordAt, div_two_pow_eq_zero hx (Nat.mul_le_mul_left 64 h), Nat.zero_mod]

theorem wordsOf_eq_map (n x : Nat) : wordsOf n x = (List.range n).map (wordAt x) := by
  induction n generalizing x with
  | zero => rfl
  | succ n ih =>
    have hhead : x % 2 ^ 64 = wordAt x 0 := by simp [wordAt]
    have htail : wordAt (x / 2 ^ 64) = wordAt x ∘ Nat.succ := funext (wordAt_div_two_pow_words x 1)
    rw [wordsOf, ih, hhead, htail, List.range_succ_eq_map, List.map_cons, List.map_map]

/-- The low word of q shifted right within a word: the top bits of q's word 0, and above them bits of its word 1. -/
theorem div_two_pow_mod_word (q : Nat) {r : Nat} (hr : r ≤ 64) :
    q / 2 ^ r % 2 ^ 64 = q % 2 ^ 64 / 2 ^ r + q / 2 ^ 64 % 2 ^ 64 * 2 ^ (64 - r) % 2 ^ 64 := by
  have hword : 2 ^ 64 = 2 ^ (64 - r) * 2 ^ r := by rw [← pow_add, Nat.sub_add_cancel hr]
  have hlow : q % 2 ^ 64 / 2 ^ r = q / 2 ^ r % 2 ^ (64 - r) := by
    rw [hword, Nat.mul_comm, Nat.mod_mul_right_div_self]
  have hhigh : q / 2 ^ r / 2 ^ (64 - r) % 2 ^ r = q / 2 ^ 64 % 2 ^ 64 % 2 ^ r := by
    rw [Nat.mod_mod_of_dvd _ (Nat.pow_dvd_pow 2 hr), Nat.div_div_eq_div_mul, ← pow_add, Nat.add_sub_cancel' hr]
  calc q / 2 ^ r % 2 ^ 64
      = q / 2 ^ r % 2 ^ (64 - r) + 2 ^ (64 - r) * (q / 2 ^ r / 2 ^ (64 - r) % 2 ^ r) := by rw [hword, Nat.mod_mul]
    _ = q % 2 ^ 64 / 2 ^ r + 2 ^ (64 - r) * (q / 2 ^ 64 % 2 ^ 64) % (2 ^ (64 - r) * 2 ^ r) := by
      rw [hlow, hhigh, Nat.mul_mod_mul_left]
    _ = q % 2 ^ 64 / 2 ^ r + q / 2 ^ 64 % 2 ^ 64 * 2 ^ (64 - r) % 2 ^ 64 := by rw [← hword, Nat.mul_comm]

/-- Word j of a value shifted right within a word. -/
theorem wordAt_div_two_pow (x j : Nat) {r : Nat} (hr : r ≤ 64) :
    wordAt (x / 2 ^ r) j = wordAt x j / 2 ^ r + wordAt x (j + 1) * 2 ^ (64 - r) % 2 ^ 64 := by
  rw [wordAt_succ, wordAt, Nat.div_right_comm, div_two_pow_mod_word _ hr, wordAt]

theorem wordAt_zero_mul (x r : Nat) : wordAt (x * r) 0 = wordAt x 0 * r % 2 ^ 64 := by
  simp [wordAt]

/-- Word j + 1 of a value shifted left within a word: the words j + 1 and j, shifted right by what the count leaves of
a word. -/
theorem wordAt_succ_mul_two_pow (x j : Nat) {r : Nat} (hr : r ≤ 64) :
    wordAt (x * 2 ^ r) (j + 1) = wordAt x (j + 1) * 2 ^ r % 2 ^ 64 + wordAt x j / 2 ^ (64 - r) := by
  have hweight : 2 ^ (64 * (j + 1)) = 2 ^ (64 * j) * 2 ^ (64 - r) * 2 ^ r := by
    rw [← pow_add, ← pow_add, Nat.add_assoc, Nat.sub_add_cancel hr, Nat.mul_succ]
  have hword := div_two_pow_mod_word (x / 2 ^ (64 * j)) (Nat.sub_le 64 r)
  rw [Nat.sub_sub_self hr, ← wordAt_succ, ← wordAt] at hword
  rw [wordAt, hweight, Nat.mul_div_mul_right _ _ (Nat.two_pow_pos r), ← Nat.div_div_eq_div_mul, hword, Nat.add_comm]

theorem two_pow_count_eq (count : Nat) : 2 ^ count = 2 ^ (64 * (count / 64)) * 2 ^ (count % 64) := by
  rw [← pow_add, Nat.div_add_mod]

/-- The first stage of the shift left: whole words move up. -/
theorem shlStage_wordsOf (n x ws : Nat) :
    ((List.range n).map fun j => if ws ≤ j then (wordsOf n x).getD (j - ws) 0 else 0) =
      wordsOf n (x * 2 ^ (64 * ws)) := by
  rw [wordsOf_eq_map n (x * _)]
  refine List.map_congr_left fun j hj => ?_
  have hlt := List.mem_range.1 hj
  rw [wordsOf_getD x (by omega), wordAt_mul_two_pow_words]

/-- The second stage of the shift left: word j with the top bits of the word below entering. -/
theorem shlStep_wordsOf {n j bs : Nat} (x : Nat) (hj : j < n) (hbs : bs < 64) :
    (wordsOf n x).getD j 0 * 2 ^ bs % 2 ^ 64 +
        (if 1 ≤ j ∧ 0 < bs then (wordsOf n x).getD (j - 1) 0 / 2 ^ (64 - bs) else 0) =
      wordAt (x * 2 ^ bs) j := by
  rw [wordsOf_getD x hj, wordsOf_getD x (by omega)]
  cases j with
  | zero => rw [wordAt_zero_mul, if_neg (by simp), Nat.add_zero]
  | succ j =>
    rw [wordAt_succ_mul_two_pow _ _ hbs.le, Nat.add_sub_cancel]
    congr 1
    obtain rfl | hpos := Nat.eq_zero_or_pos bs
    · exact (Nat.div_eq_of_lt (wordAt_lt ..)).symm
    · rw [if_pos ⟨Nat.le_add_left 1 j, hpos⟩]

theorem shlWords_wordsOf {n count : Nat} (x : Nat) (h : count < 64 * n) :
    shlWords n (wordsOf n x) count = wordsOf n (x * 2 ^ count) := by
  unfold shlWords
  rw [if_neg (Nat.not_le.2 h), two_pow_count_eq count, ← Nat.mul_assoc]
  dsimp only
  rw [shlStage_wordsOf, wordsOf_eq_map n (_ * 2 ^ (count % 64))]
  exact List.map_congr_left fun j hj => shlStep_wordsOf _ (List.mem_range.1 hj) (Nat.mod_lt _ (by decide))

/-- The first stage of the shift right: whole words move down. -/
theorem shrStage_wordsOf {n x : Nat} (hx : x < 2 ^ (64 * n)) (ws : Nat) :
    ((List.range n).map fun j => if j + ws ≤ n - 1 then (wordsOf n x).getD (j + ws) 0 else 0) =
      wordsOf n (x / 2 ^ (64 * ws)) := by
  rw [wordsOf_eq_map n (x / _)]
  refine List.map_congr_left fun j hj => ?_
  have hlt := List.mem_range.1 hj
  rw [wordAt_div_two_pow_words]
  split
  next => exact wordsOf_getD x (by omega)
  next => exact (wordAt_eq_zero hx (by omega)).symm

/-- The second stage of the shift right: word j with the low bits of the word above entering. -/
theorem shrStep_wordsOf {n j bs x : Nat} (hx : x < 2 ^ (64 * n)) (hj : j < n) (hbs : bs ≤ 64) :
    (wordsOf n x).getD j 0 / 2 ^ bs +
        (if j + 1 ≤ n - 1 ∧ 0 < bs then (wordsOf n x).getD (j + 1) 0 * 2 ^ (64 - bs) % 2 ^ 64 else 0) =
      wordAt (x / 2 ^ bs) j := by
  rw [wordsOf_getD x hj, wordAt_div_two_pow _ _ hbs]
  congr 1
  split
  next => rw [wordsOf_getD x (by omega)]
  next =>
    obtain htop | rfl : n ≤ j + 1 ∨ bs = 0 := by omega
    · rw [wordAt_eq_zero hx htop, Nat.zero_mul, Nat.zero_mod]
    · exact (Nat.mul_mod_left ..).symm

theorem shrWords_wordsOf {n count x : Nat} (hx : x < 2 ^ (64 * n)) (h : count < 64 * n) :
    shrWords n (wordsOf n x) count = wordsOf n (x / 2 ^ count) := by
  unfold shrWords
  rw [if_neg (Nat.not_le.2 h), two_pow_count_eq count, ← Nat.div_div_eq_div_mul]
  dsimp only
  rw [shrStage_wordsOf hx, wordsOf_eq_map n (_ / 2 ^ (count % 64))]
  exact List.map_congr_left fun j hj => shrStep_wordsOf ((Nat.div_le_self _ _).trans_lt hx) (List.mem_range.1 hj)
    (Nat.mod_lt _ (by decide)).le

theorem valueOf_replicate_zero (n : Nat) : valueOf (List.replicate n 0) = 0 := by
  rw [← wordsOf_zero, valueOf_wordsOf, Nat.zero_mod]

theorem valueOf_shlWords (n x count : Nat) :
    valueOf (shlWords n (wordsOf n x) count) = x * 2 ^ count % 2 ^ (64 * n) := by
  by_cases h : 64 * n ≤ count
  · rw [shlWords, if_pos h, valueOf_replicate_zero, mul_two_pow_mod_eq_zero x h]
  · rw [shlWords_wordsOf x (Nat.not_le.1 h), valueOf_wordsOf]

theorem valueOf_shrWords {n x : Nat} (hx : x < 2 ^ (64 * n)) (count : Nat) :
    valueOf (shrWords n (wordsOf n x) count) = x / 2 ^ count := by
  by_cases h : 64 * n ≤ count
  · rw [shrWords, if_pos h, valueOf_replicate_zero, div_two_pow_eq_zero hx h]
  · rw [shrWords_wordsOf hx (Nat.not_le.1 h), valueOf_wordsOf, Nat.mod_eq_of_lt ((Nat.div_le_self _ _).trans_lt hx)]

end Reference

/-- Settles O16: the two stages give the words of the shifted value. -/
theorem shiftLoopsAgree : Obligations.ShiftLoopsAgree := by
  refine ⟨fun s vd va sb => ?_, fun s vd va x => ?_⟩
  · rw [Reference.valueOf_shlWords, Reference.valueOf_shrWords (readV_lt s va)]
    exact ⟨writesV_shl s vd va sb, writesV_shr s vd va sb⟩
  · rw [Reference.valueOf_shlWords, Reference.valueOf_shrWords (readV_lt s va)]
    exact ⟨writesV_shli s vd va x, writesV_shri s vd va x⟩

/-! ## Single bits (R168 to R172) -/

theorem sext64_eq_toInt (x : Scalar) : sext64 x = x.toInt := by
  rw [BitVec.toInt_eq_msb_cond, BitVec.msb_eq_getLsbD_last]
  rfl

section
variable {s : State} {sb : SReg}

/-- An index in [0, W) names its bit. -/
theorem bitPosition_of_mem {i : Nat} (hi : (s.readS sb).toInt = i) (hlt : i < s.width) :
    s.bitPosition? sb = some i := by
  have hindex : s.bitIndex sb = i := (sext64_eq_toInt _).trans hi
  rw [State.bitPosition?, hindex, if_pos ⟨Int.natCast_nonneg i, Int.ofNat_lt.2 hlt⟩, Int.toNat_natCast]

/-- An index outside [0, W) names no bit. -/
theorem bitPosition_of_not_mem (h : (s.readS sb).toInt < 0 ∨ (s.width : Int) ≤ (s.readS sb).toInt) :
    s.bitPosition? sb = none := by
  rw [← sext64_eq_toInt] at h
  exact if_neg fun ⟨hnonneg, hlt⟩ => h.elim hnonneg.not_gt hlt.not_ge

variable {i : Instr} {f : Nat → Nat → Nat} {vd va : VReg}

theorem exec_setbit : exec (.setbit vd va sb) s = changeBit (fun a i => a ||| 2 ^ i) vd va sb s := rfl

theorem exec_clrbit : exec (.clrbit vd va sb) s = changeBit (fun a i => a &&& (2 ^ s.width - 1 - 2 ^ i)) vd va sb s :=
  rfl

theorem exec_flipbit : exec (.flipbit vd va sb) s = changeBit (fun a i => a ^^^ 2 ^ i) vd va sb s := rfl

/-- In range SETBIT, CLRBIT and FLIPBIT write the changed value. -/
theorem writesBits_of_exec_eq_changeBit {k : Nat} {bit : Nat → Bool} (h : exec i s = changeBit f vd va sb s)
    (hpos : s.bitPosition? sb = some k) (hlt : f (s.readV va) k < 2 ^ s.width)
    (hbit : ∀ j, (f (s.readV va) k).testBit j = bit j) :
    ∃ t, exec i s = .next t ∧ OnlyWritesV vd s t ∧ ∀ j, (t.readV vd).testBit j = bit j :=
  writesBits_of_exec_eq (h.trans (by rw [changeBit, hpos])) hlt hbit

/-- Out of range SETBIT, CLRBIT and FLIPBIT copy the value. -/
theorem writesV_of_exec_eq_changeBit (h : exec i s = changeBit f vd va sb s) (hpos : s.bitPosition? sb = none) :
    WritesV i s vd (s.readV va) :=
  writesV_of_exec_eq (h.trans (by rw [changeBit, hpos])) (readV_lt s va)

end

/-- A value below 2^w has no bits from w up. -/
theorem decide_lt_and_testBit {w a : Nat} (ha : a < 2 ^ w) (k : Nat) : (decide (k < w) && a.testBit k) = a.testBit k := by
  rw [← Nat.testBit_mod_two_pow, Nat.mod_eq_of_lt ha]

theorem testBit_or_two_pow (a i k : Nat) : (a ||| 2 ^ i).testBit k = (k == i || a.testBit k) := by
  rw [Nat.testBit_or, Nat.testBit_two_pow, Bool.or_comm, decide_eq_decide.2 eq_comm]
  rfl

theorem testBit_xor_two_pow (a i k : Nat) : (a ^^^ 2 ^ i).testBit k = ((k == i) ^^ a.testBit k) := by
  rw [Nat.testBit_xor, Nat.testBit_two_pow, Bool.xor_comm, decide_eq_decide.2 eq_comm]
  rfl

theorem testBit_and_not_two_pow {w a i : Nat} (ha : a < 2 ^ w) (hi : i < w) (k : Nat) :
    (a &&& (2 ^ w - 1 - 2 ^ i)).testBit k = (k != i && a.testBit k) := by
  rw [Nat.testBit_and, testBit_two_pow_sub_one_sub (Nat.pow_lt_pow_right one_lt_two hi), Nat.testBit_two_pow,
    ← Bool.and_assoc, Bool.and_comm (a.testBit k), decide_lt_and_testBit ha, Bool.and_comm, decide_eq_decide.2 eq_comm]
  rfl

/-- Settles O17: an index in [0, W) names its bit, any other index none. -/
theorem bitAccessResults : Obligations.BitAccessResults := by
  intro s sd vd va sb
  have ha := readV_lt s va
  refine ⟨decode_encode (.bit sd va sb), decode_encode (.setbit vd va sb), decode_encode (.clrbit vd va sb),
    decode_encode (.flipbit vd va sb), fun i hi hlt => ?_, fun hout => ?_⟩
  · have hpos := bitPosition_of_mem hi hlt
    have hpow : 2 ^ i < 2 ^ s.width := Nat.pow_lt_pow_right one_lt_two hlt
    have hmask : 2 ^ s.width - 1 - 2 ^ i < 2 ^ s.width :=
      (Nat.sub_le _ _).trans_lt (Nat.sub_one_lt s.width.two_pow_pos.ne')
    refine ⟨writesS_of_exec_eq ((execBit_eq sd va sb s).trans (by rw [hpos]; rfl)), ?_, ?_, ?_⟩
    · exact writesBits_of_exec_eq_changeBit exec_setbit hpos (Nat.or_lt_two_pow ha hpow) (testBit_or_two_pow _ i)
    · exact writesBits_of_exec_eq_changeBit exec_clrbit hpos (Nat.and_lt_two_pow _ hmask) (testBit_and_not_two_pow ha hlt)
    · exact writesBits_of_exec_eq_changeBit exec_flipbit hpos (Nat.xor_lt_two_pow ha hpow) (testBit_xor_two_pow _ i)
  · have hpos := bitPosition_of_not_mem hout
    exact ⟨writesS_of_exec_eq ((execBit_eq sd va sb s).trans (by rw [hpos]; rfl)),
      writesV_of_exec_eq_changeBit exec_setbit hpos, writesV_of_exec_eq_changeBit exec_clrbit hpos,
      writesV_of_exec_eq_changeBit exec_flipbit hpos⟩

/-! ## Counters (R173 to R175) -/

theorem bitLen_eq_size (x : Nat) : bitLen x = x.size := by
  refine Nat.le_antisymm (bitLen_le x.lt_size_self) (Nat.size_le.2 (lt_two_pow_bitLen x))

/-- What counts no more than the bits of a value fits a scalar. -/
theorem toNat_ofNat_of_le_width {s : State} {n : Nat} (h : n ≤ s.width) : (BitVec.ofNat 64 n).toNat = n := by
  have hwidth : s.width ≤ 1024 := by
    unfold State.width
    obtain hn | hn := nwords_cases s <;> omega
  rw [BitVec.toNat_ofNat, Nat.mod_eq_of_lt (by omega)]

theorem lowZeros_le (w x : Nat) : lowZeros w x ≤ w := by
  induction w generalizing x with
  | zero => exact le_rfl
  | succ w ih =>
    unfold lowZeros
    have hrest := ih (x / 2)
    split <;> omega

theorem lowZeros_zero (w : Nat) : lowZeros w 0 = w := by
  induction w with
  | zero => rfl
  | succ w ih => rw [lowZeros, if_neg (by decide), Nat.zero_div, ih, Nat.add_comm]

/-- The bits below the count are 0. -/
theorem testBit_eq_false_of_lt_lowZeros {w x k : Nat} (h : k < lowZeros w x) : x.testBit k = false := by
  induction w generalizing x k with
  | zero => exact absurd h k.not_lt_zero
  | succ w ih =>
    rw [lowZeros] at h
    split at h
    next => exact absurd h k.not_lt_zero
    next heven =>
      cases k with
      | zero => simpa using heven
      | succ k =>
        rw [Nat.testBit_succ]
        exact ih (by omega)

/-- The bit at the count is 1, where the value has one among its low w bits. -/
theorem testBit_lowZeros {w x : Nat} (hx : x < 2 ^ w) (hne : x ≠ 0) : x.testBit (lowZeros w x) = true := by
  induction w generalizing x with
  | zero => omega
  | succ w ih =>
    rw [lowZeros]
    split
    next hodd => simpa using hodd
    next heven =>
      rw [Nat.add_comm 1, Nat.testBit_succ]
      exact ih (by omega) (by omega)

theorem popCountBelow_eq_length (w x : Nat) :
    popCountBelow w x = ((List.range w).filter fun k => x.testBit k).length := by
  induction w generalizing x with
  | zero => rfl
  | succ w ih =>
    rw [popCountBelow, ih, List.range_succ_eq_map, List.filter_cons, List.filter_map]
    have htail : ((fun k => x.testBit k) ∘ Nat.succ) = fun k => (x / 2).testBit k :=
      funext fun k => Nat.testBit_succ x k
    rw [htail]
    obtain hlow | hlow := Nat.mod_two_eq_zero_or_one x
    · simp [hlow]
    · simp [hlow, Nat.add_comm]

theorem popCountBelow_zero (w : Nat) : popCountBelow w 0 = 0 := by
  induction w with
  | zero => rfl
  | succ w ih => rw [popCountBelow, Nat.zero_mod, Nat.zero_div, ih]

/-- The bits of a low part and those above it are counted apart. -/
theorem popCountBelow_add (m k x : Nat) :
    popCountBelow (m + k) x = popCountBelow m x + popCountBelow k (x / 2 ^ m) := by
  induction m generalizing x with
  | zero => simp [popCountBelow]
  | succ m ih =>
    rw [Nat.succ_add, popCountBelow, ih, popCountBelow, Nat.div_div_eq_div_mul, ← Nat.pow_succ', Nat.add_assoc]

theorem popCountBelow_mod (w x : Nat) : popCountBelow w (x % 2 ^ w) = popCountBelow w x := by
  rw [popCountBelow_eq_length, popCountBelow_eq_length]
  congr 1
  refine List.filter_congr fun k hk => ?_
  rw [Nat.testBit_mod_two_pow, decide_eq_true (List.mem_range.1 hk), Bool.true_and]

theorem popCount_eq {w x : Nat} (hx : x < 2 ^ w) : popCount x = popCountBelow w x := by
  obtain ⟨k, hk⟩ := Nat.exists_eq_add_of_le (bitLen_le hx)
  rw [hk, popCountBelow_add, Nat.div_eq_of_lt (lt_two_pow_bitLen x), popCountBelow_zero, Nat.add_zero, popCount]

/-- Settles O18: each count is at most W, so the scalar holds it exactly. -/
theorem counterResults : Obligations.CounterResults := by
  intro s sd va
  have ha := readV_lt s va
  refine ⟨decode_encode (.clz sd va), decode_encode (.ctz sd va), decode_encode (.popc sd va),
    ⟨_, rfl, onlyWritesS_writeS s sd _, ?_⟩, ⟨_, rfl, onlyWritesS_writeS s sd _, ?_⟩, _, rfl,
    onlyWritesS_writeS s sd _, ?_⟩
  · rw [readS_writeS_same, toNat_ofNat_of_le_width (Nat.sub_le _ _), bitLen_eq_size]
  · rw [readS_writeS_same, toNat_ofNat_of_le_width (lowZeros_le _ _)]
    refine ⟨fun hzero => ?_, fun hne => ⟨testBit_lowZeros ha hne, fun k => testBit_eq_false_of_lt_lowZeros⟩⟩
    rw [hzero, lowZeros_zero]
  · have hcount : popCount (s.readV va) = _ := (popCount_eq ha).trans (popCountBelow_eq_length _ _)
    rw [readS_writeS_same, hcount, toNat_ofNat_of_le_width]
    exact (List.length_filter_le _ _).trans List.length_range.le

/-! ## The word scans (R173 to R175) -/

theorem size_div_two_pow (x m : Nat) : (x / 2 ^ m).size = x.size - m := by
  refine eq_of_forall_ge_iff fun k => ?_
  rw [Nat.size_le, Nat.div_lt_iff_lt_mul (Nat.two_pow_pos m), ← pow_add, ← Nat.size_le, Nat.sub_le_iff_le_add]

/-- The count goes on above a low part that is all 0. -/
theorem lowZeros_add (m k x : Nat) :
    lowZeros (m + k) x = if x % 2 ^ m = 0 then m + lowZeros k (x / 2 ^ m) else lowZeros m (x % 2 ^ m) := by
  induction m generalizing x with
  | zero => simp [Nat.mod_one]
  | succ m ih =>
    have hmod : x % 2 ^ (m + 1) = x % 2 + 2 * (x / 2 % 2 ^ m) := by rw [Nat.pow_succ', Nat.mod_mul]
    have hdiv : x / 2 ^ (m + 1) = x / 2 / 2 ^ m := by rw [Nat.pow_succ', Nat.div_div_eq_div_mul]
    rw [Nat.succ_add, lowZeros, ih, hmod, hdiv, lowZeros]
    obtain hlow | hlow := Nat.mod_two_eq_zero_or_one x
    · have hodd : ¬ 2 * (x / 2 % 2 ^ m) % 2 = 1 := by omega
      simp only [hlow, Nat.zero_add, Nat.mul_eq_zero, two_ne_zero, false_or, zero_ne_one, if_false, hodd,
        Nat.mul_div_cancel_left _ two_pos]
      split <;> omega
    · simp [hlow]

namespace Reference

/-- The words of a natural with the top word split off. -/
theorem wordsOf_succ_eq_append (n x : Nat) : wordsOf (n + 1) x = wordsOf n x ++ [wordAt x n] := by
  rw [wordsOf_eq_map, wordsOf_eq_map, List.range_succ, List.map_append, List.map_singleton]

theorem clzScan_wordsOf {n x : Nat} (hx : x < 2 ^ (64 * n)) :
    clzScan (wordsOf n x).reverse = 64 * n - bitLen x := by
  induction n with
  | zero => exact (Nat.zero_sub _).symm
  | succ n ih =>
    have htop : wordAt x n = x / 2 ^ (64 * n) := by
      refine Nat.mod_eq_of_lt (Nat.div_lt_of_lt_mul ?_)
      rwa [← pow_add]
    have hsize := size_div_two_pow x (64 * n)
    rw [wordsOf_succ_eq_append, List.reverse_append, List.reverse_singleton, List.singleton_append, clzScan, htop]
    split
    next hzero =>
      have hlt := (Nat.div_eq_zero_iff_lt (Nat.two_pow_pos _)).1 hzero
      have hle := bitLen_le hlt
      rw [ih hlt]
      omega
    next hne =>
      have hpos := Nat.size_pos.2 (Nat.pos_of_ne_zero hne)
      rw [bitLen_eq_size, bitLen_eq_size]
      omega

theorem ctzScan_wordsOf (n x : Nat) : ctzScan (wordsOf n x) = lowZeros (64 * n) x := by
  induction n generalizing x with
  | zero => rfl
  | succ n ih => rw [wordsOf, ctzScan, ih, Nat.mul_succ, Nat.add_comm (64 * n), lowZeros_add]

theorem popSum_wordsOf (n x : Nat) : popSum (wordsOf n x) = popCountBelow (64 * n) x := by
  induction n generalizing x with
  | zero => rfl
  | succ n ih =>
    rw [wordsOf, popSum, ih, popCount_eq (Nat.mod_lt _ (Nat.two_pow_pos 64)), popCountBelow_mod, Nat.mul_succ,
      Nat.add_comm (64 * n), popCountBelow_add]

end Reference

/-- Settles O19: each scan gives, word by word, the count over the whole value. -/
theorem counterScansAgree : Obligations.CounterScansAgree := by
  intro s sd va
  have ha := readV_lt s va
  rw [Reference.clzScan_wordsOf ha, Reference.ctzScan_wordsOf, Reference.popSum_wordsOf,
    ← popCount_eq (w := 64 * s.nwords) ha]
  exact ⟨writesS_of_exec_eq rfl, writesS_of_exec_eq rfl, writesS_of_exec_eq rfl⟩

end Sys2Proof.Machine

/-! PROOFS. The family of 43_compare.md: the three-way comparison and its word scan, the tests written as booleans, the
parity, the minimum and the maximum. -/

namespace Sys2Proof.Machine

/-! ## The three-way comparison (R200) -/

section
variable {a b : Nat}

theorem cmpNat_of_lt (h : a < b) : cmpNat a b = -1 := if_pos h

@[simp] theorem cmpNat_self (a : Nat) : cmpNat a a = 0 := by simp [cmpNat]

theorem cmpNat_of_gt (h : b < a) : cmpNat a b = 1 := by rw [cmpNat, if_neg h.not_gt, if_neg h.ne']

/-- The two operands are in one of three orders, each with its outcome of the comparison. -/
theorem cmpNat_cases (a b : Nat) : a < b ∧ cmpNat a b = -1 ∨ a = b ∧ cmpNat a b = 0 ∨ b < a ∧ cmpNat a b = 1 := by
  obtain h | rfl | h := Nat.lt_trichotomy a b
  · exact .inl ⟨h, cmpNat_of_lt h⟩
  · exact .inr (.inl ⟨rfl, cmpNat_self a⟩)
  · exact .inr (.inr ⟨h, cmpNat_of_gt h⟩)

theorem cmpNat_eq_neg_one_iff : cmpNat a b = -1 ↔ a < b := by
  have := cmpNat_cases a b
  omega

theorem cmpNat_eq_one_iff : cmpNat a b = 1 ↔ b < a := by
  have := cmpNat_cases a b
  omega

theorem cmpNat_nonpos_iff : cmpNat a b ≤ 0 ↔ a ≤ b := by
  have := cmpNat_cases a b
  omega

theorem cmpNat_nonneg_iff : 0 ≤ cmpNat a b ↔ b ≤ a := by
  have := cmpNat_cases a b
  omega

end

namespace Reference

/-- The words above decide where they differ, and the lowest word where they agree. -/
theorem cmpScan_wordsOf {n x y : Nat} (hx : x < 2 ^ (64 * n)) (hy : y < 2 ^ (64 * n)) :
    cmpScan (wordsOf n x) (wordsOf n y) = cmpNat x y := by
  induction n generalizing x y with
  | zero =>
    obtain rfl := Nat.lt_one_iff.1 hx
    obtain rfl := Nat.lt_one_iff.1 hy
    rfl
  | succ n ih =>
    rw [two_pow_words_succ] at hx hy
    rw [wordsOf, wordsOf, cmpScan, ih (Nat.div_lt_of_lt_mul hx) (Nat.div_lt_of_lt_mul hy)]
    obtain ⟨habove, hcmp⟩ | ⟨habove, hcmp⟩ | ⟨habove, hcmp⟩ := cmpNat_cases (x / 2 ^ 64) (y / 2 ^ 64)
    · have hlt : x < y := by omega
      rw [hcmp, cmpNat_of_lt hlt]
      rfl
    · have heq : x % 2 ^ 64 = y % 2 ^ 64 ↔ x = y := by omega
      have hlt : x % 2 ^ 64 < y % 2 ^ 64 ↔ x < y := by omega
      have hcases := cmpNat_cases x y
      simp only [hcmp, heq, hlt]
      split_ifs <;> omega
    · have hgt : y < x := by omega
      rw [hcmp, cmpNat_of_gt hgt]
      rfl

end Reference

/-- Settles O21: the three orders give the three outcomes, and the scan compares the values its words compose to. -/
theorem threeWayCompareResults : Obligations.ThreeWayCompareResults := by
  intro s sd va vb
  have hcmp : WritesS (.cmp sd va vb) s sd (u64 (cmpNat (s.readV va) (s.readV vb))) := writesS_of_exec_eq rfl
  refine ⟨decode_encode (.cmp sd va vb), fun hlt => ?_, fun heq => ?_, fun hgt => ?_, ?_⟩
  · rwa [cmpNat_of_lt hlt] at hcmp
  · rwa [heq, cmpNat_self] at hcmp
  · rwa [cmpNat_of_gt hgt] at hcmp
  · rwa [Reference.cmpScan_wordsOf (readV_lt s va) (readV_lt s vb)]

/-! ## The boolean comparisons (R201 to R206) -/

/-- A command that is one write of a test writes 1 where the tested condition holds and 0 where it does not. -/
theorem writesS_of_exec_eq_boolScalar {i : Instr} {s : State} {sd : SReg} {test : Bool} {p : Prop} [Decidable p]
    (h : exec i s = .next (s.writeS sd (boolScalar test))) (hp : test = true ↔ p) :
    WritesS i s sd (if p then 1 else 0) := by
  simp only [← hp]
  exact writesS_of_exec_eq h

/-- Settles O20: each test of the comparison's outcome is the comparison it is named after. -/
theorem compareResults : Obligations.CompareResults := by
  intro s sd va vb
  refine ⟨decode_encode (.eq sd va vb), decode_encode (.ne sd va vb), decode_encode (.lt sd va vb),
    decode_encode (.le sd va vb), decode_encode (.gt sd va vb), decode_encode (.ge sd va vb), ?_, ?_, ?_, ?_, ?_, ?_⟩
  · exact writesS_of_exec_eq_boolScalar rfl beq_iff_eq
  · rw [← ite_not]
    exact writesS_of_exec_eq_boolScalar rfl bne_iff_ne
  · exact writesS_of_exec_eq_boolScalar rfl (beq_iff_eq.trans cmpNat_eq_neg_one_iff)
  · exact writesS_of_exec_eq_boolScalar rfl (decide_eq_true_iff.trans cmpNat_nonpos_iff)
  · exact writesS_of_exec_eq_boolScalar rfl (beq_iff_eq.trans cmpNat_eq_one_iff)
  · exact writesS_of_exec_eq_boolScalar rfl (decide_eq_true_iff.trans cmpNat_nonneg_iff)

/-! ## Parity, minimum and maximum (R208 to R211) -/

theorem ofNat_mod_two (x : Nat) : BitVec.ofNat 64 (x % 2) = if x % 2 = 1 then 1 else 0 := by
  obtain h | h := Nat.mod_two_eq_zero_or_one x <;> rw [h] <;> rfl

theorem ofNat_one_sub_mod_two (x : Nat) : BitVec.ofNat 64 (1 - x % 2) = if x % 2 = 1 then 0 else 1 := by
  obtain h | h := Nat.mod_two_eq_zero_or_one x <;> rw [h] <;> rfl

theorem exec_min (vd va vb : VReg) (s : State) :
    exec (.min vd va vb) s = .next (s.writeV vd (min (s.readV va) (s.readV vb))) := by
  simp only [min_def, ← cmpNat_nonpos_iff]
  rfl

theorem exec_max (vd va vb : VReg) (s : State) :
    exec (.max vd va vb) s = .next (s.writeV vd (max (s.readV va) (s.readV vb))) := by
  simp only [max_def', ← cmpNat_nonneg_iff]
  rfl

/-- Settles O22: the low bit gives the parity, and the outcome of the comparison the smaller or the larger operand. -/
theorem parityMinMaxResults : Obligations.ParityMinMaxResults := by
  refine ⟨fun s sd va => ⟨decode_encode (.isodd sd va), decode_encode (.iseven sd va), ?_, ?_⟩,
    fun s vd va vb => ⟨decode_encode (.min vd va vb), decode_encode (.max vd va vb), ?_, ?_⟩⟩
  · rw [← ofNat_mod_two]
    exact writesS_of_exec_eq rfl
  · rw [← ofNat_one_sub_mod_two]
    exact writesS_of_exec_eq rfl
  · exact writesV_of_exec_eq (exec_min vd va vb s) (min_lt_of_left_lt (readV_lt s va))
  · exact writesV_of_exec_eq (exec_max vd va vb s) (max_lt (readV_lt s va) (readV_lt s vb))

end Sys2Proof.Machine

/-! PROOFS. The family of 44_codec.md: a value composed from bytes of `BUF` and laid out there, the decimal and the
hexadecimal numeral, and the round trips. -/

namespace Sys2Proof.Machine

section
variable {i : Instr} {s : State} {addr : Nat}

/-! ## What a command on a region of `BUF` does (20_memory.md R47) -/

theorem endsWithError_of_readRegion {n skip len : Nat} {k : List Byte → State}
    (h : exec i s = readRegion (encode i) s addr n skip len k) (hout : ¬ addr + n ≤ 4096) :
    EndsWithError i s .bufferRange :=
  ⟨_, h.trans (if_neg (mt (inRange_iff addr n).1 hout)), errorEntry_taken .bufferRange (encode i) s⟩

theorem endsWithError_of_writeRegion {bs : List Byte} {k : State → State}
    (h : exec i s = writeRegion (encode i) s addr bs k) (hout : ¬ addr + bs.length ≤ 4096) :
    EndsWithError i s .bufferRange :=
  ⟨_, h.trans (if_neg (mt (inRange_iff addr _).1 hout)), errorEntry_taken .bufferRange (encode i) s⟩

/-- TOW, TOLE and TOBE in range store their bytes and nothing else. -/
theorem storesBytes_of_writeRegion {bs : List Byte} (h : exec i s = writeRegion (encode i) s addr bs id)
    (hin : addr + bs.length ≤ 4096) : StoresBytes i s addr bs none 0 :=
  ⟨_, h.trans (writeRegion_eq hin), fun _ => byteAt_setBytes_inside, nofun, onlyWrites_storeBytes s addr bs⟩

/-- A string command in range stores its string, and the length in its scalar register (R230). -/
theorem storesBytes_of_renderTo {sd : SReg} {str : List Byte} (h : exec i s = renderTo (encode i) sd addr str s)
    (hin : addr + str.length ≤ 4096) : StoresBytes i s addr str (some sd) (BitVec.ofNat 64 str.length) := by
  refine ⟨_, h.trans (writeRegion_eq hin), fun _ => byteAt_setBytes_inside, fun d hd => ?_,
    onlyWrites_storeBytes_writeS s addr str sd _⟩
  obtain rfl := Option.some.inj hd
  exact readS_writeS_same _ sd _

end

/-! ## Bytes of a value (R232 to R237) -/

theorem pow_valueBytes (s : State) : 256 ^ s.valueBytes = 2 ^ s.width := by
  have hbits : 8 * s.valueBytes = s.width := by
    unfold State.valueBytes State.width
    omega
  rw [← hbits, pow_mul]
  rfl

/-- No more bytes than a value has compose to a natural that fits a value register. -/
theorem natOfBytes_lt_width {s : State} {bs : List Byte} (h : bs.length ≤ s.valueBytes) :
    natOfBytes bs < 2 ^ s.width :=
  pow_valueBytes s ▸ (natOfBytes_lt bs).trans_le (Nat.pow_le_pow_right (by decide) h)

/-- Above its bytes a composed natural is 0. -/
theorem byteOf_natOfBytes_above {bs : List Byte} {k : Nat} (h : bs.length ≤ k) : byteOf (natOfBytes bs) k = 0 := by
  have hlt : natOfBytes bs < 256 ^ k := (natOfBytes_lt bs).trans_le (Nat.pow_le_pow_right (by decide) h)
  rw [byteOf, Nat.div_eq_of_lt hlt]
  rfl

theorem bytesOfNat_eq_map (n x : Nat) : bytesOfNat n x = (List.range n).map fun k => byteOf x k := by
  refine List.ext_getElem (by simp) fun k hk _ => ?_
  rw [List.getElem_map, List.getElem_range]
  rw [bytesOfNat_length] at hk
  exact List.getElem_eq_iff _ |>.2 (bytesOfNat_getElem? x hk)

/-- The 8N bytes of a value compose to it again. -/
theorem natOfBytes_bytesOfNat_readV (s : State) (va : VReg) :
    natOfBytes (bytesOfNat s.valueBytes (s.readV va)) = s.readV va := by
  rw [natOfBytes_bytesOfNat, pow_valueBytes, Nat.mod_eq_of_lt (readV_lt s va)]

/-! ## Construction (R231 to R234) -/

section
variable {i : Instr} {s : State} {vd : VReg} {addr n m : Nat}

/-- A construction completes: byte k of its value is the byte at address `source k` for k below m, and 0 above. -/
def BuildsFrom (i : Instr) (s : State) (vd : VReg) (m : Nat) (source : Nat → Nat) : Prop :=
  ∃ t, exec i s = .next t ∧ OnlyWritesV vd s t ∧
    (∀ k, k < m → s.buf.byteAt (source k) = some (byteOf (t.readV vd) k)) ∧
    (∀ k, m ≤ k → byteOf (t.readV vd) k = 0)

/-- A command that writes the natural composed of the bytes at the addresses `source`. -/
theorem buildsFrom_of_exec_eq {bs : List Byte} {source : Nat → Nat}
    (h : exec i s = .next (s.writeV vd (natOfBytes bs))) (hlen : bs.length = m) (hm : m ≤ s.valueBytes)
    (hbyte : ∀ k, k < m → s.buf.byteAt (source k) = bs[k]?) : BuildsFrom i s vd m source := by
  subst hlen
  refine ⟨_, h, onlyWritesV_writeV s vd _, ?_⟩
  rw [readV_writeV_same (natOfBytes_lt_width hm)]
  exact ⟨fun k hk => (hbyte k hk).trans (byteOf_natOfBytes hk).symm, fun k => byteOf_natOfBytes_above⟩

/-- FROMW and FROMLE: byte k comes from address `addr + k`. -/
theorem buildsFrom_littleEndian
    (h : exec i s = readRegion (encode i) s addr n 0 m fun bs => s.writeV vd (natOfBytes bs))
    (hm : m ≤ s.valueBytes) (hin : addr + n ≤ 4096) (hwritten : ∀ k, k < m → s.buf.byteAt (addr + k) ≠ none) :
    BuildsFrom i s vd m (addr + ·) := by
  obtain ⟨bs, hbs⟩ := (bytesAt_isSome s.buf addr m).2 hwritten
  obtain ⟨hlen, hbyte⟩ := bytesAt_eq_some.1 hbs
  exact buildsFrom_of_exec_eq (h.trans (readRegion_eq hin hbs)) hlen hm hbyte

/-- FROMBE: the last m of n bytes are used, and byte k comes from address `addr + (n - 1 - k)`. -/
theorem buildsFrom_bigEndian
    (h : exec i s = readRegion (encode i) s addr n (n - m) m fun bs => s.writeV vd (natOfBytes bs.reverse))
    (hn : m ≤ n) (hm : m ≤ s.valueBytes) (hin : addr + n ≤ 4096)
    (hwritten : ∀ k, k < m → s.buf.byteAt (addr + (n - 1 - k)) ≠ none) :
    BuildsFrom i s vd m fun k => addr + (n - 1 - k) := by
  have hmirror : ∀ k, k < m → addr + (n - 1 - k) = addr + (n - m) + (m - 1 - k) := by omega
  obtain ⟨bs, hbs⟩ := (bytesAt_isSome s.buf (addr + (n - m)) m).2 fun k hk => by
    have hk' := hwritten (m - 1 - k) (by omega)
    rwa [hmirror _ (by omega), show m - 1 - (m - 1 - k) = k by omega] at hk'
  obtain ⟨hlen, hbyte⟩ := bytesAt_eq_some.1 hbs
  refine buildsFrom_of_exec_eq (h.trans (readRegion_eq hin hbs)) (bs.length_reverse.trans hlen) hm fun k hk => ?_
  rw [hmirror k hk, hbyte _ (by omega), List.getElem?_reverse (by omega), hlen]

end

/-- The reading of an over-long input makes no difference for an input that is not over-long (R234). -/
theorem fromBigEndian_eq_of_le {s : State} {vd : VReg} {sa sb : SReg} (h : s.natS sb ≤ s.valueBytes)
    (p : BeOverlong) : fromBigEndian p vd sa sb s = exec (.frombe vd sa sb) s := by
  cases p with
  | keepLow => rfl
  | keepHigh =>
    have hnone : s.natS sb - min (s.natS sb) s.valueBytes = 0 := by rw [min_eq_left h, Nat.sub_self]
    have hhigh : fromBigEndian .keepHigh vd sa sb s = readRegion (encode (.frombe vd sa sb)) s (s.natS sa)
      (s.natS sb) 0 (min (s.natS sb) s.valueBytes) fun bs => s.writeV vd (natOfBytes bs.reverse) := rfl
    rw [hhigh, ← hnone]
    rfl

theorem scalar_lt_width (s : State) (r : SReg) : (s.readS r).toNat < 2 ^ s.width := by
  refine (s.readS r).isLt.trans_le (Nat.pow_le_pow_right (by decide) ?_)
  unfold State.width
  obtain hn | hn := nwords_cases s <;> omega

/-! ## The decimal numeral (R238) -/

theorem digitChar_mod_ten (w : Nat) : digitChar (w % 10) = BitVec.ofNat 8 (0x30 + w % 10) :=
  congrArg (BitVec.ofNat 8) (if_pos (Nat.mod_lt w (by decide)))

/-- The digits divided out one by one are those of the base-10 numeral. -/
theorem decDigits_eq_digits {fuel w : Nat} (h : w < 2 ^ fuel) :
    decDigits fuel w = (Nat.digits 10 w).map fun d => BitVec.ofNat 8 (0x30 + d) := by
  induction fuel generalizing w with
  | zero =>
    obtain rfl := Nat.lt_one_iff.1 h
    rfl
  | succ fuel ih =>
    obtain rfl | hw := Nat.eq_zero_or_pos w
    · rfl
    · rw [decDigits, if_neg hw.ne', ih (by omega), digitChar_mod_ten, Nat.digits_def' (by decide) hw, List.map_cons]

theorem decString_eq_decimalNumeral (x : Nat) : decString x = decimalNumeral x := by
  rw [decString, decDigits_eq_digits Nat.lt_log2_self, decimalNumeral]

/-- Division by DivSmall gives the digits that division of the value gives. -/
theorem Reference.decLoop_eq_decDigits (fuel : Nat) (ws : List Nat) :
    Reference.decLoop fuel ws = decDigits fuel (Reference.valueOf ws) := by
  induction fuel generalizing ws with
  | zero => rfl
  | succ fuel ih =>
    obtain ⟨hquotient, hremainder⟩ := Reference.divSmall_eq (d := 10) (by decide) ws
    rw [Reference.decLoop, decDigits, ih, hquotient, hremainder, digitChar_mod_ten]

theorem Reference.decString_eq_decimalNumeral {x k : Nat} (hx : x < 2 ^ (64 * k)) :
    Reference.decString x k = decimalNumeral x := by
  rw [Reference.decString, Reference.decLoop_eq_decDigits, Reference.valueOf_wordsOf, Nat.mod_eq_of_lt hx,
    decDigits_eq_digits hx, decimalNumeral]

theorem decimalNumeral_length_le {x n : Nat} (hn : 1 ≤ n) (hx : x < 10 ^ n) : (decimalNumeral x).length ≤ n := by
  unfold decimalNumeral
  split
  · exact hn
  · rw [List.length_reverse, List.length_map]
    exact (Nat.digits_length_le_iff (by decide) x).2 hx

/-- Settles O33: each pass of DivSmall takes off the lowest digit, and the numeral has as many characters as digits. -/
theorem decStringIsDecimalNumeral : Obligations.DecStringIsDecimalNumeral :=
  ⟨fun _ _ hx => ⟨Reference.decString_eq_decimalNumeral hx, decString_eq_decimalNumeral _⟩,
    fun _ hx => decimalNumeral_length_le (by decide) (hx.trans_le (by decide +kernel)),
    fun _ hx => decimalNumeral_length_le (by decide) (hx.trans_le (by decide +kernel)),
    fun _ hx => decimalNumeral_length_le (by decide) (hx.trans_le (by decide +kernel))⟩

/-! ## The hexadecimal numeral (R239) -/

/-- The low m hexadecimal digits of a natural, zero-padded, most significant first: `hex16` at every length. -/
def hexDigits : Nat → Nat → List Byte
  | 0, _ => []
  | m + 1, x => hexDigits m (x / 16) ++ [digitChar (x % 16)]

theorem hexDigits_eq_map (m x : Nat) :
    hexDigits m x = (List.range m).map fun k => digitChar (x / 16 ^ (m - 1 - k) % 16) := by
  induction m generalizing x with
  | zero => rfl
  | succ m ih =>
    have hshift : ∀ k ∈ List.range m,
        digitChar (x / 16 / 16 ^ (m - 1 - k) % 16) = digitChar (x / 16 ^ (m + 1 - 1 - k) % 16) := fun k hk => by
      have hexp : m - 1 - k + 1 = m + 1 - 1 - k := by
        have := List.mem_range.1 hk
        omega
      rw [Nat.div_div_eq_div_mul, ← pow_succ', hexp]
    rw [hexDigits, ih, List.range_succ, List.map_append, List.map_singleton, List.map_congr_left hshift]
    simp

theorem hex16_eq_hexDigits (w : Nat) : hex16 w = hexDigits 16 w := (hexDigits_eq_map 16 w).symm

/-- The low m digits do not see what lies above them. -/
theorem hexDigits_mod (m x : Nat) : hexDigits m (x % 16 ^ m) = hexDigits m x := by
  induction m generalizing x with
  | zero => rfl
  | succ m ih =>
    rw [hexDigits, pow_succ', Nat.mod_mul_right_div_self, ih, Nat.mod_mul_right_mod, hexDigits]

theorem hexDigits_add (m n x : Nat) : hexDigits (m + n) x = hexDigits m (x / 16 ^ n) ++ hexDigits n x := by
  induction n generalizing x with
  | zero => simp [hexDigits]
  | succ n ih =>
    rw [← Nat.add_assoc, hexDigits, ih, hexDigits, List.append_assoc, Nat.div_div_eq_div_mul, ← pow_succ']

/-- A word has 16 hexadecimal digits. -/
theorem pow_hexDigits (n : Nat) : 2 ^ (64 * n) = 16 ^ (16 * n) := by
  rw [show 16 ^ (16 * n) = (2 ^ 4) ^ (16 * n) from rfl, ← pow_mul, ← Nat.mul_assoc]

theorem digitChar_eq_zero_iff : ∀ d < 16, digitChar d = 0x30 ↔ d = 0 := by decide

theorem digitChars_ne_nil {x : Nat} (h : x ≠ 0) : ((Nat.digits 16 x).map digitChar).reverse ≠ [] := by
  rwa [Ne, List.reverse_eq_nil_iff, List.map_eq_nil_iff, Nat.digits_eq_nil_iff_eq_zero]

/-- Without their leading zeros the digits are those of the base-16 numeral. -/
theorem dropWhile_hexDigits {m x : Nat} (hx : x < 16 ^ m) :
    (hexDigits m x).dropWhile (· == 0x30) = ((Nat.digits 16 x).map digitChar).reverse := by
  induction m generalizing x with
  | zero =>
    obtain rfl := Nat.lt_one_iff.1 hx
    rfl
  | succ m ih =>
    rw [hexDigits, List.dropWhile_append, ih (Nat.div_lt_of_lt_mul (pow_succ' 16 m ▸ hx))]
    obtain rfl | hpos := Nat.eq_zero_or_pos x
    · rfl
    · rw [Nat.digits_def' (by decide) hpos, List.map_cons, List.reverse_cons]
      by_cases hlow : x / 16 = 0
      · have hdigit : digitChar (x % 16) ≠ 0x30 := by
          rw [Ne, digitChar_eq_zero_iff _ (Nat.mod_lt x (by decide))]
          omega
        rw [hlow, Nat.digits_zero, List.dropWhile_cons_of_neg (by simpa using hdigit)]
        rfl
      · rw [if_neg (by rw [List.isEmpty_iff]; exact digitChars_ne_nil hlow)]

/-- Leading zero words render as leading zeros. -/
theorem dropWhile_flatMap_hex16 (ws : List Nat) :
    (ws.flatMap hex16).dropWhile (· == 0x30) = ((ws.dropWhile (· == 0)).flatMap hex16).dropWhile (· == 0x30) := by
  induction ws with
  | nil => rfl
  | cons w ws ih =>
    obtain rfl | hw := Nat.eq_zero_or_pos w
    · have hzeros : ∀ c ∈ hex16 0, (c == 0x30) = true := by decide
      rw [List.flatMap_cons, List.dropWhile_append_of_pos hzeros, ih]
      rfl
    · rw [List.dropWhile_cons_of_neg (by simpa using hw.ne')]

/-- The padded words of a value are its padded digits. -/
theorem flatMap_hex16_wordsDown (n x : Nat) : (wordsDown n x).flatMap hex16 = hexDigits (16 * n) x := by
  rw [wordsDown, ← Reference.wordsOf_eq_map]
  induction n generalizing x with
  | zero => rfl
  | succ n ih =>
    have hlow : hex16 (x % 2 ^ 64) = hexDigits 16 x := by
      rw [hex16_eq_hexDigits, show 2 ^ 64 = 16 ^ 16 from pow_hexDigits 1, hexDigits_mod]
    rw [Reference.wordsOf, List.reverse_cons, List.flatMap_append, ih, List.flatMap_singleton, hlow, Nat.mul_succ,
      hexDigits_add]
    rfl

theorem hexWord_eq_digits {w : Nat} (h : w < 2 ^ 64) : hexWord w = ((Nat.digits 16 w).map digitChar).reverse := by
  rw [hexWord, hex16_eq_hexDigits, dropWhile_hexDigits h]

theorem hexWord_ne_nil {w : Nat} (hne : w ≠ 0) (h : w < 2 ^ 64) : hexWord w ≠ [] :=
  hexWord_eq_digits h ▸ digitChars_ne_nil hne

/-- Behind the leading zeros of a non-zero word nothing is dropped. -/
theorem dropWhile_hex16_append {w : Nat} (hne : w ≠ 0) (h : w < 2 ^ 64) (bs : List Byte) :
    (hex16 w ++ bs).dropWhile (· == 0x30) = hexWord w ++ bs := by
  have hrest : (hex16 w).dropWhile (· == 0x30) ≠ [] := hexWord_ne_nil hne h
  rw [List.dropWhile_append, if_neg (by rwa [List.isEmpty_iff]), hexWord]

/-- The most significant non-zero word is one, and a word. -/
theorem leadingWord_spec {n x w : Nat} {rest : List Nat} (h : (wordsDown n x).dropWhile (· == 0) = w :: rest) :
    w ≠ 0 ∧ w < 2 ^ 64 := by
  have hhead := List.head?_dropWhile_not (· == 0) (wordsDown n x)
  have hmem : w ∈ wordsDown n x := List.dropWhile_subset _ (h ▸ List.mem_cons_self)
  rw [h] at hhead
  obtain ⟨j, -, rfl⟩ := List.mem_map.1 (List.mem_reverse.1 hmem)
  exact ⟨ne_of_beq_false hhead, wordAt_lt x j⟩

/-- The codes of a digit, with the letters counted from 'a'. -/
theorem digitChar_eq :
    digitChar = fun d => BitVec.ofNat 8 (if d < 10 then 0x30 + d else 0x61 + (d - 10)) := by
  funext d
  rw [digitChar]
  congr 1
  split_ifs <;> omega

theorem hexString_eq_hexNumeral {n x : Nat} (hx : x < 2 ^ (64 * n)) : hexString n x = hexNumeral x := by
  have hdigits : ((wordsDown n x).dropWhile (· == 0) |>.flatMap hex16).dropWhile (· == 0x30) =
      ((Nat.digits 16 x).map digitChar).reverse := by
    rw [← dropWhile_flatMap_hex16, flatMap_hex16_wordsDown, dropWhile_hexDigits (pow_hexDigits n ▸ hx)]
  unfold hexString hexNumeral
  rw [← digitChar_eq]
  split
  next hwords =>
    rw [hwords] at hdigits
    have hzero : x = 0 :=
      Nat.digits_eq_nil_iff_eq_zero.1 (List.map_eq_nil_iff.1 (List.reverse_eq_nil_iff.1 hdigits.symm))
    rw [if_pos hzero]
  next w rest hwords =>
    obtain ⟨hw, hlt⟩ := leadingWord_spec hwords
    rw [hwords, List.flatMap_cons, dropWhile_hex16_append hw hlt] at hdigits
    have hne : x ≠ 0 := by
      rintro rfl
      exact hexWord_ne_nil hw hlt (List.append_eq_nil_iff.1 hdigits).1
    rw [if_neg hne, ← hdigits]
    rfl

/-- At most 16 digits a word behind "0x". -/
theorem hexString_length_le {n x : Nat} (hn : 1 ≤ n) (hx : x < 2 ^ (64 * n)) :
    (hexString n x).length ≤ 16 * n + 2 := by
  rw [hexString_eq_hexNumeral hx, hexNumeral, List.length_cons, List.length_cons]
  split
  · exact Nat.add_le_add_right (hn.trans (Nat.le_mul_of_pos_left n (by decide))) 2
  · rw [List.length_reverse, List.length_map]
    exact Nat.add_le_add_right ((Nat.digits_length_le_iff (by decide) x).2 (pow_hexDigits n ▸ hx)) 2

/-- Settles O34: padding the words to 16 digits and dropping the leading zeros leaves the digits of the numeral. -/
theorem hexStringIsHexNumeral : Obligations.HexStringIsHexNumeral := by
  refine ⟨fun _ _ => hexString_eq_hexNumeral, fun x hx => ?_, fun x hx => ?_⟩
  · rw [show 512 = 64 * 8 from rfl] at hx
    exact hexString_length_le (by decide) hx
  · rw [show 1024 = 64 * 16 from rfl] at hx
    exact hexString_length_le (by decide) hx

/-! ## The results of the commands -/

/-- Settles O23: a scalar is below 2^W, so the register holds it and nothing above it. -/
theorem fromScalarResult : Obligations.FromScalarResult := fun s vd sa =>
  ⟨decode_encode (.froms vd sa), writesV_of_exec_eq rfl (scalar_lt_width s sa)⟩

/-- Settles O24: the words' bytes in their order are the value's bytes. -/
theorem fromWordsResult : Obligations.FromWordsResult := fun _ vd sa sb =>
  ⟨decode_encode (.fromw vd sa sb),
    buildsFrom_littleEndian rfl (Nat.mul_le_mul_left 8 (Nat.min_le_right _ _)), endsWithError_of_readRegion rfl⟩

/-- Settles O25: byte i of the value is the one at the i-th address. -/
theorem fromLittleEndianResult : Obligations.FromLittleEndianResult := fun _ vd sa sb =>
  ⟨decode_encode (.fromle vd sa sb), buildsFrom_littleEndian rfl (Nat.min_le_right _ _),
    endsWithError_of_readRegion rfl⟩

/-- Settles O26: the used bytes end the region, and the last of them is byte 0. -/
theorem fromBigEndianResult : Obligations.FromBigEndianResult := fun _ vd sa sb =>
  ⟨decode_encode (.frombe vd sa sb), buildsFrom_bigEndian rfl (Nat.min_le_left _ _) (Nat.min_le_right _ _),
    endsWithError_of_readRegion rfl, fun hle p => fromBigEndian_eq_of_le hle p⟩

/-- Settles O27: the bytes of a value in rising order, as they stand or reversed, fill the region. -/
theorem exportResults : Obligations.ExportResults := by
  intro s va sb addr n little
  have hlittle : little = bytesOfNat s.valueBytes (s.readV va) := (bytesOfNat_eq_map _ _).symm
  have hlen : little.length = n := by rw [hlittle, bytesOfNat_length]; rfl
  have hlen' : little.reverse.length = n := by rw [List.length_reverse, hlen]
  have htow : exec (.tow va sb) s = writeRegion (encode (.tow va sb)) s addr little id := by rw [hlittle]; rfl
  have htole : exec (.tole va sb) s = writeRegion (encode (.tole va sb)) s addr little id := by rw [hlittle]; rfl
  have htobe : exec (.tobe va sb) s = writeRegion (encode (.tobe va sb)) s addr little.reverse id := by
    rw [hlittle]; rfl
  refine ⟨decode_encode (.tow va sb), decode_encode (.tole va sb), decode_encode (.tobe va sb), fun hin => ?_,
    fun hout => ?_⟩
  · exact ⟨storesBytes_of_writeRegion htow (hlen ▸ hin), storesBytes_of_writeRegion htole (hlen ▸ hin),
      storesBytes_of_writeRegion htobe (hlen' ▸ hin)⟩
  · exact ⟨endsWithError_of_writeRegion htow (hlen ▸ hout), endsWithError_of_writeRegion htole (hlen ▸ hout),
      endsWithError_of_writeRegion htobe (hlen' ▸ hout)⟩

theorem exec_dec (s : State) (sd : SReg) (va : VReg) (sb : SReg) :
    exec (.dec sd va sb) s =
      renderTo (encode (.dec sd va sb)) sd (s.natS sb) (decimalNumeral (s.readV va)) s := by
  rw [← decString_eq_decimalNumeral]
  rfl

theorem exec_hex (s : State) (sd : SReg) (va : VReg) (sb : SReg) :
    exec (.hex sd va sb) s =
      renderTo (encode (.hex sd va sb)) sd (s.natS sb) (hexNumeral (s.readV va)) s := by
  rw [← hexString_eq_hexNumeral (readV_lt s va)]
  rfl

theorem exec_pdec (s : State) (sd : SReg) (pa : PReg) (sb : SReg) :
    exec (.pdec sd pa sb) s =
      renderTo (encode (.pdec sd pa sb)) sd (s.natS sb) (decimalNumeral (s.readP pa)) s := by
  rw [← decString_eq_decimalNumeral]
  rfl

/-- Settles O28: the string each command stores is the numeral. -/
theorem renderResults : Obligations.RenderResults := fun s sd va pa sb =>
  ⟨decode_encode (.dec sd va sb), decode_encode (.hex sd va sb), decode_encode (.pdec sd pa sb),
    storesBytes_of_renderTo (exec_dec s sd va sb), endsWithError_of_writeRegion (exec_dec s sd va sb),
    storesBytes_of_renderTo (exec_hex s sd va sb), endsWithError_of_writeRegion (exec_hex s sd va sb),
    storesBytes_of_renderTo (exec_pdec s sd pa sb), endsWithError_of_writeRegion (exec_pdec s sd pa sb)⟩

/-! ## Round trips (R243) -/

/-- Bytes stored and then read, each in their order, give back the value they were made from. -/
theorem readV_build_after_store {s : State} {store build : Instr} {va vd : VReg} {addr n skip len : Nat}
    {bs : List Byte} {order : List Byte → List Byte} (hstore : exec store s = writeRegion (encode store) s addr bs id)
    (hbuild : exec build (s.storeBytes addr bs) = readRegion (encode build) (s.storeBytes addr bs) addr n skip len
      fun bytes => (s.storeBytes addr bs).writeV vd (natOfBytes (order bytes)))
    (hin : addr + s.valueBytes ≤ 4096) (hbs : bs.length = s.valueBytes) (hn : n = s.valueBytes) (hskip : skip = 0)
    (hlen : len = s.valueBytes) (hvalue : natOfBytes (order bs) = s.readV va) :
    ∃ t u, exec store s = .next t ∧ exec build t = .next u ∧ u.readV vd = s.readV va := by
  rw [← hbs] at hin hn hlen
  subst hn hskip hlen
  refine ⟨_, _, hstore.trans (writeRegion_eq hin),
    hbuild.trans (readRegion_eq hin (bytesAt_setBytes_same s.buf addr bs)), ?_⟩
  rw [hvalue]
  exact readV_writeV_same (readV_lt s va)

/-- Settles O35: the construction reads the bytes just stored, and a scalar fits a value register. -/
theorem codecRoundTrips : Obligations.CodecRoundTrips := by
  refine ⟨fun s va vd sb sc hin => ?_, fun s vd sa sb sd hin => ?_⟩
  · have hlen := bytesOfNat_length s.valueBytes (s.readV va)
    have hvalue := natOfBytes_bytesOfNat_readV s va
    refine ⟨fun hk => ?_, fun hL => ?_, fun hL => ?_⟩
    · exact readV_build_after_store (order := id) rfl rfl hin hlen (congrArg (8 * ·) hk) rfl
        (congrArg (8 * ·) (min_eq_right hk.ge)) hvalue
    · exact readV_build_after_store (order := id) rfl rfl hin hlen hL rfl (min_eq_right hL.ge) hvalue
    · exact readV_build_after_store (order := List.reverse) rfl rfl hin (List.length_reverse.trans hlen) hL
        (Nat.sub_eq_zero_of_le (le_min le_rfl hL.le)) (min_eq_right hL.ge) (by rw [List.reverse_reverse, hvalue])
  · have hread : (s.writeV vd (s.natS sa)).readV vd = (s.readS sa).toNat := readV_writeV_same (scalar_lt_width s sa)
    have hdec := storesBytes_of_renderTo (exec_dec (s.writeV vd (s.natS sa)) sd vd sb)
    rw [hread] at hdec
    obtain ⟨u, hu, hbytes, -, -⟩ := hdec hin
    exact ⟨_, u, rfl, hu, hbytes⟩

end Sys2Proof.Machine

/-! PROOFS. The family of 45_scalar.md: the scalar support commands and the bytes of a scalar. -/

namespace Sys2Proof.Machine

/-! ## The bytes of a scalar (R272, R273) -/

/-- Byte k of a scalar is byte k of the natural it stands for. -/
theorem extractLsb'_scalar_byte (x : Scalar) (k : Nat) : x.extractLsb' (8 * k) 8 = byteOf x.toNat k := by
  rw [byteOf, show 256 = 2 ^ 8 from rfl, ← pow_mul, ← Nat.shiftRight_eq_div_pow]
  rfl

/-- The bytes STS lays out are those of the scalar, lowest first. -/
theorem scalarBytes_eq_bytesOfNat (x : Scalar) :
    ((List.range 8).map fun k => x.extractLsb' (8 * k) 8) = bytesOfNat 8 x.toNat := by
  simp only [extractLsb'_scalar_byte, bytesOfNat_eq_map]

/-- A scalar holds the natural of 8 bytes whole, so its byte k is the k-th of them. -/
theorem extractLsb'_ofNat_natOfBytes {bs : List Byte} {k : Nat} (hlen : bs.length = 8) (hk : k < 8) :
    some ((BitVec.ofNat 64 (natOfBytes bs)).extractLsb' (8 * k) 8) = bs[k]? := by
  have hlt : natOfBytes bs < 2 ^ 64 := (natOfBytes_lt bs).trans_eq (by rw [hlen]; rfl)
  rw [extractLsb'_scalar_byte, BitVec.toNat_ofNat, Nat.mod_eq_of_lt hlt, byteOf_natOfBytes (hlen ▸ hk)]

section
variable {i : Instr} {s : State} {sd : SReg} {addr : Nat}

/-- A command that composes 8 written bytes into a scalar register completes, and byte k of the register is the one
at address `addr + k`. -/
theorem loadsScalar_of_readRegion
    (h : exec i s = readRegion (encode i) s addr 8 0 8 fun bs => s.writeS sd (BitVec.ofNat 64 (natOfBytes bs)))
    (hin : addr + 8 ≤ 4096) (hwritten : ∀ k, k < 8 → s.buf.byteAt (addr + k) ≠ none) :
    ∃ t, exec i s = .next t ∧ OnlyWritesS sd s t ∧
      ∀ k, k < 8 → s.buf.byteAt (addr + k) = some ((t.readS sd).extractLsb' (8 * k) 8) := by
  obtain ⟨bs, hbs⟩ := (bytesAt_isSome s.buf addr 8).2 hwritten
  obtain ⟨hlen, hbyte⟩ := bytesAt_eq_some.1 hbs
  refine ⟨_, h.trans (readRegion_eq hin hbs), onlyWritesS_writeS s sd _, fun k hk => ?_⟩
  rw [readS_writeS_same, hbyte k hk, extractLsb'_ofNat_natOfBytes hlen hk]

end

/-! ## The results of the commands -/

theorem exec_sts (s : State) (sa sb : SReg) :
    exec (.sts sa sb) s = writeRegion (encode (.sts sa sb)) s (s.readS sa).toNat
      ((List.range 8).map fun k => (s.readS sb).extractLsb' (8 * k) 8) id := by
  rw [scalarBytes_eq_bytesOfNat]
  rfl

/-- Settles O30: the 8 bytes composed or laid out are the bytes of the 64-bit register. -/
theorem scalarBufferResults : Obligations.ScalarBufferResults :=
  ⟨fun _ sd sa => ⟨decode_encode (.lds sd sa), loadsScalar_of_readRegion rfl, endsWithError_of_readRegion rfl⟩,
    fun s sa sb => ⟨decode_encode (.sts sa sb), storesBytes_of_writeRegion (exec_sts s sa sb),
      endsWithError_of_writeRegion (exec_sts s sa sb)⟩⟩

/-- SLI loads its immediate zero-extended (R270). -/
theorem zextImm_eq_ofNat (x : Imm16) : zextImm x = BitVec.ofNat 64 x.toNat := by
  simpa using zextImm_ofNat x.isLt

/-- SSHI concatenates where R271 shifts and inserts: the top 16 bits are lost modulo 2^64. -/
theorem extractLsb'_append_imm (a : Scalar) (x : Imm16) :
    a.extractLsb' 0 48 ++ x = BitVec.ofNat 64 (a.toNat * 2 ^ 16 + x.toNat) := by
  have habove : (a.toNat * 2 ^ 16 + x.toNat) / 2 ^ 16 = a.toNat := by omega
  have hlow : BitVec.ofNat 16 (a.toNat * 2 ^ 16 + x.toNat) = x :=
    BitVec.eq_of_toNat_eq (by rw [BitVec.toNat_ofNat]; omega)
  have happend := extractLsb'_append_low16 (a.toNat * 2 ^ 16 + x.toNat)
  rwa [habove, hlow, BitVec.ofNat_toNat, BitVec.setWidth_eq] at happend

/-- Settles O29: each command is one write to its scalar register. -/
theorem scalarResults : Obligations.ScalarResults := by
  refine ⟨fun s sd x => ⟨decode_encode (.sli sd x), ?_⟩, fun s sd x => ⟨decode_encode (.sshi sd x), ?_⟩,
    fun s sd sa => ⟨decode_encode (.smov sd sa), writesS_of_exec_eq rfl⟩⟩
  · rw [← zextImm_eq_ofNat]
    exact writesS_of_exec_eq rfl
  · rw [← extractLsb'_append_imm]
    exact writesS_of_exec_eq rfl

end Sys2Proof.Machine

/-! PROOFS. The family of 60_exceptions.md: which error a command ends with, and that without one it completes. -/

namespace Sys2Proof.Machine

section
variable {i : Instr} {s t : State} {c : Word32} {e e' : ErrorCause}

/-! ## The error a command meets (R300, R302) -/

/-- The commands that read a region of `BUF` check it before anything else. -/
theorem endsWithError_of_namedRegion (h : ¬ regionOk (namedRegion s i)) : EndsWithError i s .bufferRange := by
  cases i with
  | fromw | fromle | frombe | lds => exact endsWithError_of_readRegion rfl h
  | _ => exact absurd trivial h

/-- A string command that cannot store its string ends with the range error. -/
theorem endsWithError_of_renderTo {sd : SReg} {addr : Nat} {str : List Byte}
    (h : exec i s = renderTo (encode i) sd addr str s) (hout : ¬ addr + str.length ≤ 4096) :
    EndsWithError i s .bufferRange :=
  endsWithError_of_writeRegion h hout

/-- The commands that write a region of `BUF` check it before they store. -/
theorem endsWithError_of_storedRegion (h : ¬ regionOk (storedRegion s i)) : EndsWithError i s .bufferRange := by
  cases i with
  | tow | tole | tobe => exact endsWithError_of_writeRegion rfl (by simpa [storedRegion, regionOk] using h)
  | sts => exact endsWithError_of_writeRegion rfl h
  | dec | hex | pdec => exact endsWithError_of_renderTo rfl h
  | _ => exact absurd trivial h

/-- A COMMAND THAT MEETS AN ERROR ends with it. -/
theorem endsWithError_of_meets (met : Meets i s e) : EndsWithError i s e := by
  cases e with
  | divisionByZero =>
    obtain ⟨vb, hvb, hzero⟩ : ∃ vb, divisorOf i = some vb ∧ s.readV vb = 0 := by simpa [Meets, divisorOk] using met
    obtain ⟨vd, va, rfl | rfl⟩ := eq_div_or_mod_of_divisorOf hvb <;> exact endsWithError_of_divideBy rfl hzero
  | illegalCommand => exact met.elim
  | bufferRange => exact met.elim endsWithError_of_namedRegion endsWithError_of_storedRegion

/-- The error record holds one cause, so a command meets at most one error. -/
theorem meets_unique (met : Meets i s e) (met' : Meets i s e') : e = e' := by
  obtain ⟨t, ht, taken⟩ := endsWithError_of_meets met
  obtain ⟨t', ht', taken'⟩ := endsWithError_of_meets met'
  obtain rfl : t = t' := Host.Outcome.next.inj (ht.symm.trans ht')
  exact Option.some.inj (taken.errcause.symm.trans taken'.errcause)

/-! ## Completion (R301) -/

/-- The conditions of completion rule out every error. -/
theorem Completes.not_meets (h : Completes i s) : ¬ Meets i s e := by
  obtain ⟨hdivisor, hnamed, -, hstored⟩ := h
  cases e with
  | divisionByZero => exact not_not_intro hdivisor
  | illegalCommand => exact id
  | bufferRange => exact not_or.2 ⟨not_not_intro hnamed, not_not_intro hstored⟩

/-- A command that completes goes on: a state agrees with itself on the command's sources. -/
theorem Completes.exec_eq_next (h : Completes i s) : ∃ t, exec i s = .next t := by
  obtain ⟨-, t, -, ht, -⟩ :=
    exec_alike (s' := s) ⟨rfl, fun _ _ => rfl, fun _ _ => rfl, fun _ _ => rfl, fun _ _ => rfl⟩ h
  exact ⟨t, ht⟩

/-! ## The engine's error entry (R304) -/

/-- The fall of BUSY takes nothing from an error that was taken. -/
theorem ErrorTaken.complete (h : ErrorTaken e c s t) : ErrorTaken e c s.complete t.complete where
  err := h.err
  errcause := h.errcause
  errcmd := h.errcmd
  v := h.v
  p := h.p
  scalar := h.scalar
  buf := h.buf
  control := { h.control with phase := rfl }

end

/-! ## The obligations -/

/-- Settles O36: it goes on, and what it goes on with is in its frame, since it meets no error. -/
theorem everyCommandCompletesWithinItsFrame : Obligations.EveryCommandCompletesWithinItsFrame := by
  intro i s h
  obtain ⟨t, ht⟩ := h.exec_eq_next
  refine ⟨t, ht, (exec_errorOrFrame ht).resolve_left ?_⟩
  rintro ⟨e, met, -⟩
  exact h.not_meets met

/-- Settles O37: the check of R300 that fails decides the command, and the record it leaves names one cause. -/
theorem errorsArePrecise : Obligations.ErrorsArePrecise := by
  refine ⟨fun _ _ _ => endsWithError_of_meets, fun _ _ _ _ => meets_unique, fun i s t h => ?_⟩
  rcases exec_errorOrFrame h with ⟨e, met, rfl⟩ | hframe
  · exact .inl ⟨e, met, errorEntry_taken e (encode i) s⟩
  · exact .inr hframe

/-- Settles O43: the engine executes the command, which takes the error, and completes it. -/
theorem stepRecordsError : Obligations.StepRecordsError := by
  intro s c i e hbusy hturn hdecode met
  obtain ⟨t, ht, taken⟩ := endsWithError_of_meets (s := s.takeTurn) met
  rw [encode_of_decode hdecode] at taken
  refine ⟨t.complete, ?_, rfl, taken.complete⟩
  rw [step_eq_engineMoves_of_engine hturn hbusy]
  exact completeResult_eq_next.2 ⟨t, (executeWord_of_decode hdecode).trans ht, rfl⟩

end Sys2Proof.Machine

/-! PROOFS. The family of 70_reset_and_hazards.md, and the remaining statements: where a command stops, what the
platform's reset leaves of the state and of the host's accesses, that BUSY ends, and the bound on a product. -/

namespace Sys2Proof.Machine

section
variable {i : Instr} {s t : State} {c : Word32} {f : Fault} {a : HostAccess} {rest : List HostAccess} {fate : HeldFate}

/-! ## Where a command stops (70_reset_and_hazards.md R341) -/

/-- The commands that need bytes of `BUF`. -/
theorem mnemonic_mem_of_not_regionWritten (h : ¬ regionWritten s (usedRegion s i)) :
    i.mnemonic ∈ ([.fromw, .fromle, .frombe, .lds] : List Mnemonic) := by
  cases i with
  | fromw | fromle | frombe | lds => simp [Instr.mnemonic]
  | _ => exact absurd trivial h

/-- A command that stops meets no error, for with one it goes on. -/
theorem not_meets_of_exec_eq_fault (h : exec i s = .fault f) (e : ErrorCause) : ¬ Meets i s e := fun met => by
  obtain ⟨t, ht, -⟩ := endsWithError_of_meets met
  rw [h] at ht
  cases ht

/-- A command that stops has its regions in range; of the conditions of completion it is the written bytes that fail. -/
theorem regions_of_exec_eq_fault (h : exec i s = .fault f) :
    regionOk (namedRegion s i) ∧ ¬ regionWritten s (usedRegion s i) := by
  have hdivisor : divisorOk i s := not_not.1 (not_meets_of_exec_eq_fault h .divisionByZero)
  obtain ⟨hnamed, hstored⟩ := not_or.1 (not_meets_of_exec_eq_fault h .bufferRange)
  refine ⟨not_not.1 hnamed, fun hwritten => ?_⟩
  obtain ⟨t, ht⟩ := Completes.exec_eq_next ⟨hdivisor, not_not.1 hnamed, hwritten, not_not.1 hstored⟩
  rw [h] at ht
  cases ht

/-! ## What reset leaves of the state (R340, R341) -/

theorem resetFor_afterReset (inst : Instance) : (State.resetFor inst).AfterReset :=
  ⟨rfl, rfl, rfl, rfl, rfl, rfl, fun _ => rfl⟩

theorem platformReset_afterReset (s : State) (fate : HeldFate) : (s.platformReset fate).AfterReset :=
  ⟨rfl, rfl, rfl, rfl, rfl, rfl, fun _ => rfl⟩

theorem State.AfterReset.statusWord_eq_zero (h : s.AfterReset) : s.statusWord = 0 := by
  unfold State.statusWord State.isBusy
  rw [h.phase, h.err, h.drop]
  rfl

theorem resetFor_inv (inst : Instance) : (State.resetFor inst).Inv where
  buf := rfl
  busy _ := rfl
  cause := by rintro (h | h) <;> cases h
  clear _ := rfl
  record := nofun

/-- At the platform's turn the step is the reset, whatever the engine is doing (R342). -/
theorem step_eq_platformReset (hturn : s.turn = .reset fate) : step s = .next (s.takeTurn.platformReset fate) := by
  unfold step
  rw [hturn]

/-! ## What reset leaves of the host's accesses (R342, 93_implementation_defined.md I5) -/

theorem settleHeld_notHeld (s : State) : s.settleHeld .notHeld = s := rfl

theorem settleHeld_aborted (hp : s.pending = a :: rest) : s.settleHeld .aborted = { s with pending := rest } := by
  unfold State.settleHeld
  rw [hp]

theorem accessAllowed_of_not_busError (h : ¬ BusError a) : accessAllowed a.offset a.width = true :=
  Bool.eq_true_of_not_eq_false (mt (accessAllowed_eq_false_iff a).1 h)

/-- A held access that the address map refuses is not completed (20_memory.md R43). -/
theorem settleHeld_completed_busError (v : Word32) (hp : s.pending = a :: rest) (ha : BusError a) :
    s.settleHeld (.completed v) = s := by
  have hno : ¬ accessAllowed a.offset a.width = true := by simp [(accessAllowed_eq_false_iff a).2 ha]
  unfold State.settleHeld
  rw [hp]
  cases a with
  | read | write => exact if_neg hno

theorem settleHeld_completed_read {o : HostOffset} {w : AccessWidth} (v : Word32)
    (hp : s.pending = .read o w :: rest) (ha : ¬ BusError (.read o w)) :
    s.settleHeld (.completed v) = State.answer { s with pending := rest } v := by
  unfold State.settleHeld
  rw [hp]
  exact if_pos (accessAllowed_of_not_busError ha)

theorem settleHeld_completed_write {o : HostOffset} {w : AccessWidth} {d : Word32} (v : Word32)
    (hp : s.pending = .write o w d :: rest) (ha : ¬ BusError (.write o w d)) :
    s.settleHeld (.completed v) = { s with pending := rest } := by
  unfold State.settleHeld
  rw [hp]
  exact if_pos (accessAllowed_of_not_busError ha)

/-- With the engine IDLE, no access left, or one that R51 performs at once, nothing is held. -/
theorem holdsAccess_eq_false
    (h : s.isBusy = false ∨ s.pending = [] ∨ ∃ a rest, s.pending = a :: rest ∧ PerformedAtOnce a) :
    s.holdsAccess = false := by
  refine Bool.eq_false_of_not_eq_true fun hheld => ?_
  obtain ⟨hbusy, a, rest, hp, ha⟩ := (holdsAccess_iff s).1 hheld
  rcases h with hidle | hnil | ⟨a', rest', hp', ha'⟩
  · rw [hidle] at hbusy; cases hbusy
  · rw [hnil] at hp; cases hp
  · obtain ⟨rfl, -⟩ := List.cons.inj (hp.symm.trans hp')
    exact ha ha'

/-! ## The end of BUSY (R352, 20_memory.md R53) -/

/-- Within `n` steps the run has BUSY = 0, or has stopped on an unwritten byte. -/
def BusyEndsWithin (n : Nat) (s : State) : Prop :=
  ∃ k, k ≤ n ∧
    ((∃ t, Sys2Proof.core.run k s = .next t ∧ t.isBusy = false) ∨ Sys2Proof.core.run k s = .fault .unwrittenByte)

theorem run_one (M : Host.Core) (s : M.State) : M.run 1 s = M.step s := by
  rw [Host.Core.run]
  cases M.step s <;> rfl

theorem run_succ {M : Host.Core} {s t : M.State} (h : M.step s = .next t) (k : Nat) : M.run (k + 1) s = M.run k t := by
  rw [Host.Core.run, h]

/-- A step that leaves BUSY ending within `n` steps is one step more. -/
theorem BusyEndsWithin.of_step {n : Nat} (h : step s = .next t) (ht : BusyEndsWithin n t) :
    BusyEndsWithin (n + 1) s := by
  obtain ⟨k, hk, hend⟩ := ht
  exact ⟨k + 1, Nat.succ_le_succ hk, by rwa [run_succ (M := Sys2Proof.core) h]⟩

/-- The engine's execution ends BUSY in its one step, or stops; it is never refused. -/
theorem busyEndsWithin_of_engineMoves (h : step s = engineMoves c s.takeTurn) (n : Nat) : BusyEndsWithin (n + 1) s := by
  refine ⟨1, Nat.succ_le_succ n.zero_le, ?_⟩
  rw [run_one Sys2Proof.core s, show Sys2Proof.core.step s = _ from h]
  cases hm : engineMoves c s.takeTurn with
  | next t =>
    obtain ⟨u, -, rfl⟩ := completeResult_eq_next.1 hm
    exact .inl ⟨_, rfl, isBusy_complete u⟩
  | fault f => cases f; exact .inr rfl
  | refused r => exact absurd hm engineMoves_ne_refused

/-- The accesses R51 performs at once go on and leave the command in execution. -/
theorem step_of_performedAtOnce (hturn : s.turn = .host) (hp : s.pending = a :: rest) (ha : PerformedAtOnce a) :
    ∃ t, step s = .next t ∧ t.isBusy = s.isBusy ∧ t.schedule = s.schedule.tail := by
  rcases ha with hread | ⟨d, rfl⟩
  · obtain ⟨o, ho, rfl⟩ : ∃ o ∈ ([0x000, 0x004, 0x008, 0x010] : List HostOffset), a = .read o .word := by
      simpa using hread
    exact ⟨_, step_unheldRead hturn hp ho, rfl, rfl⟩
  · exact ⟨_, statusWriteClears s d rest hturn hp, rfl, rfl⟩

/-- A turn of the host or the platform stands in the schedule: past its end the turn is the engine's. -/
theorem schedule_eq_cons (h : s.turn ≠ .engine) : s.schedule = s.turn :: s.schedule.tail := by
  unfold State.turn at h ⊢
  cases hs : s.schedule with
  | nil => rw [hs] at h; exact absurd rfl h
  | cons u us => rfl

/-- A step while BUSY, with no reset scheduled: the engine's, or a host turn that leaves the command in execution. -/
theorem step_busy_cases (hbusy : s.isBusy = true) (hreset : ∀ fate, Turn.reset fate ∉ s.schedule) :
    (∃ c, step s = engineMoves c s.takeTurn) ∨
    ∃ t, step s = .next t ∧ t.isBusy = true ∧ s.schedule = .host :: t.schedule := by
  rcases step_cases s with ⟨fate, hturn, -⟩ | ⟨hidle | ⟨hturn, hmay⟩, -⟩ | ⟨c, -, e⟩
  · refine absurd ?_ (hreset fate)
    rw [schedule_eq_cons (by simp [hturn]), hturn]
    exact .head _
  · unfold State.isBusy at hbusy
    rw [hidle] at hbusy
    cases hbusy
  · unfold State.hostMayMove at hmay
    cases hp : s.pending with
    | nil => rw [hp] at hmay; cases hmay
    | cons a rest =>
      rw [hp] at hmay
      obtain ⟨t, ht, hsame, htail⟩ := step_of_performedAtOnce hturn hp ((unheld_iff a).1 hmay)
      refine .inr ⟨t, ht, hsame.trans hbusy, ?_⟩
      rw [htail, ← hturn]
      exact schedule_eq_cons (by simp [hturn])
  · exact .inl ⟨c, e⟩

/-- BUSY ENDS: each host turn before the engine's takes one turn of the schedule. -/
theorem busyEndsWithin_schedule (hbusy : s.isBusy = true) (hreset : ∀ fate, Turn.reset fate ∉ s.schedule) :
    BusyEndsWithin (s.schedule.length + 1) s := by
  induction hs : s.schedule.length generalizing s with
  | zero =>
    rcases step_busy_cases hbusy hreset with ⟨c, e⟩ | ⟨t, -, -, hsched⟩
    · exact busyEndsWithin_of_engineMoves e 0
    · rw [hsched] at hs; cases hs
  | succ n ih =>
    rcases step_busy_cases hbusy hreset with ⟨c, e⟩ | ⟨t, ht, hbusy', hsched⟩
    · exact busyEndsWithin_of_engineMoves e (n + 1)
    · rw [hsched] at hs hreset
      exact .of_step ht (ih hbusy' (fun fate h => hreset fate (.tail _ h)) (Nat.succ.inj hs))

/-! ## The bound on a product (10_state.md R23) -/

/-- The square of the largest w-bit value (R23). -/
theorem two_pow_pred_sq_add (w : Nat) : (2 ^ w - 1) ^ 2 + 2 ^ (w + 1) = 2 ^ (2 * w) + 1 := by
  obtain ⟨m, hm⟩ := Nat.exists_eq_add_of_lt w.two_pow_pos
  rw [Nat.pow_succ 2 w, Nat.mul_comm 2 w, Nat.pow_mul, hm, Nat.zero_add, Nat.add_sub_cancel]
  ring

/-- A natural no greater than that square has a high half of at most m - 2. -/
theorem div_le_of_le_pred_sq {m x : Nat} (hm : 1 < m) (hx : x ≤ (m - 1) ^ 2) : x / m ≤ m - 2 := by
  have hlt : (m - 1) ^ 2 < (m - 1) * m := by
    rw [Nat.pow_two]
    exact Nat.mul_lt_mul_of_pos_left (by omega) (by omega)
  have hdiv : x / m < m - 1 := Nat.div_lt_of_lt_mul ((hx.trans_lt hlt).trans_eq (Nat.mul_comm _ _))
  omega

/-- The product of two values is at most the square of the largest value. -/
theorem readV_mul_readV_le (s : State) (va vb : VReg) : s.readV va * s.readV vb ≤ (2 ^ s.width - 1) ^ 2 := by
  rw [Nat.pow_two]
  exact Nat.mul_le_mul (Nat.le_pred_of_lt (readV_lt s va)) (Nat.le_pred_of_lt (readV_lt s vb))

end

/-! ## The obligations -/

/-- Settles O38: without an error, and with its bytes written, a command completes. -/
theorem commandsStopOnlyOnUnwrittenBytes : Obligations.CommandsStopOnlyOnUnwrittenBytes := by
  refine ⟨fun _ _ _ => exec_ne_refused, fun i s f h => ?_⟩
  obtain ⟨hnamed, hunwritten⟩ := regions_of_exec_eq_fault h
  cases f with
  | unwrittenByte => exact ⟨rfl, hnamed, hunwritten, mnemonic_mem_of_not_regionWritten hunwritten⟩

/-- Settles O53: nothing is held in the first case, and in the second the fate decides what becomes of the access. -/
theorem resetSettlesOnlyHeldAccesses : Obligations.ResetSettlesOnlyHeldAccesses := by
  intro s fate hturn
  refine ⟨_, step_eq_platformReset hturn, fun h => ?_, fun a rest hbusy hp ha => ?_⟩
  · exact platformReset_of_not_held (s := s.takeTurn) (holdsAccess_eq_false h) fate
  · have hheld : s.takeTurn.holdsAccess = true := (holdsAccess_iff _).2 ⟨hbusy, a, rest, hp, ha⟩
    obtain ⟨hpending, hreturned⟩ := platformReset_of_held hheld fate
    have hp' : s.takeTurn.pending = a :: rest := hp
    rw [hpending, hreturned]
    refine ⟨?_, ?_, ?_⟩
    · rintro rfl
      rw [settleHeld_notHeld]
      exact ⟨rfl, rfl⟩
    · rintro rfl
      rw [settleHeld_aborted hp']
      exact ⟨rfl, rfl⟩
    · rintro v rfl
      refine ⟨fun hbad => ?_, fun hallowed => ?_⟩
      · rw [settleHeld_completed_busError v hp' hbad]
        exact ⟨rfl, rfl⟩
      · cases a with
        | read o w =>
          rw [settleHeld_completed_read v hp' hallowed]
          exact ⟨rfl, fun _ _ _ => rfl, nofun⟩
        | write o w d =>
          rw [settleHeld_completed_write v hp' hallowed]
          exact ⟨rfl, nofun, fun _ _ _ _ => rfl⟩

/-- Settles O59: the host turns before the engine's are no more than the schedule is long. -/
theorem busyEnds : Obligations.BusyEnds := fun _ hbusy hreset => busyEndsWithin_schedule hbusy hreset

/-- Settles O52: the reset values at build, and the platform's reset as the whole step. -/
theorem resetLeavesControlState : Obligations.ResetLeavesControlState := by
  refine ⟨fun inst => ⟨resetFor_afterReset inst, Files.inst_zero inst, (resetFor_afterReset inst).statusWord_eq_zero⟩,
    fun s fate hturn => ?_⟩
  have hafter := platformReset_afterReset s.takeTurn fate
  exact ⟨_, step_eq_platformReset hturn, hafter, inst_platformReset fate, hafter.statusWord_eq_zero⟩

/-- Settles O58: no error is recorded and `BUF` is empty, at either width. -/
theorem invariantAtReset : Obligations.InvariantAtReset := ⟨resetFor_inv, resetFor_inv .n8⟩

/-- Settles O10: what MUL leaves is the exact product, and W is positive, so 2^W is at least 2. -/
theorem mulStaysBelowTop : Obligations.MulStaysBelowTop := by
  intro s pd va vb
  obtain ⟨-, ⟨t, ht, hread, -⟩, -⟩ := mulResult s pd va vb
  have hle := readV_mul_readV_le s va vb
  have hm : 1 < 2 ^ s.width := Nat.one_lt_two_pow (width_pos s).ne'
  have hsquare := two_pow_pred_sq_add s.width
  have htwice : 2 ^ (s.width + 1) = 2 ^ s.width * 2 := Nat.pow_succ 2 s.width
  rw [← hread] at hle
  exact ⟨t, ht, hle, hsquare, div_le_of_le_pred_sq hm hle, by omega⟩

end Sys2Proof.Machine
